-- ==== Sys2Proof/Config.lean ====
section
/-!
DEFINITION. The widths of 00_scope.md rule R5, from which the types of Word.lean are made, and the places of the fields
of a Bus Word and of label 1's data that follow from them. The parameters of R5 that are values and not widths (limits,
units, steps, digit groups, the codec table, the error word, the label 5 codec) stand under the same namespace in
Machine/Params.lean, where a later repair may change a value.
UNVERIFIED (log 15, unsafe): the document's literals are unaudited (91_not_in_source.md N2).
-/

namespace Sys2Proof.Config

/-- `WORD_W`: width of a Bus Word. -/
@[simp] abbrev wordW : Nat := 32

/-- `PAR_W`: width of the parity field. -/
@[simp] abbrev parW : Nat := 1

/-- `SSM_W`: width of the status field. -/
@[simp] abbrev ssmW : Nat := 2

/-- `DATA_W`: width of the data field. -/
@[simp] abbrev dataW : Nat := 19

/-- `SDI_W`: width of the source/destination identifier. -/
@[simp] abbrev sdiW : Nat := 2

/-- `LABEL_W`: width of the label field. -/
@[simp] abbrev labelW : Nat := 8

/-- `VAL_W`: width of the signed value port. -/
@[simp] abbrev valW : Nat := 32

/-- `LAB_W`: width of the label port. -/
@[simp] abbrev labW : Nat := 12

/-- `OP_W`: width of the operation select. -/
@[simp] abbrev opW : Nat := 4

/-- `MODE_W`: width of a mode code. -/
@[simp] abbrev modeW : Nat := 2

/-- `LADDER_BITS`: bits of the altitude ladder. -/
@[simp] abbrev ladderBits : Nat := 16

/-- `ALT_BLOCK_W`: sign bit plus ladder. -/
@[simp] abbrev altBlockW : Nat := 17

/-- Width of all of a Bus Word but its parity field. -/
@[simp] abbrev bodyW : Nat := wordW - parW

/-! ### Places in a Bus Word (30_encoding.md rule R60): each field stands above the one before it -/

/-- Lowest word bit of the status field, above the parity bit. -/
@[simp] abbrev ssmLo : Nat := parW

/-- Lowest word bit of the data field. -/
@[simp] abbrev dataLo : Nat := ssmLo + ssmW

/-- Lowest word bit of the source/destination identifier. -/
@[simp] abbrev sdiLo : Nat := dataLo + dataW

/-- Lowest word bit of the label field. -/
@[simp] abbrev labelLo : Nat := sdiLo + sdiW

/-! ### Places in the data of label 1 (30_encoding.md rule R68; D9, log 11) -/

/-- Lowest data bit of the ladder, above the mode code. -/
@[simp] abbrev ladderLo : Nat := modeW

/-- Data bit of the sign, the top of the altitude block. -/
@[simp] abbrev signAt : Nat := modeW + altBlockW - 1

end Sys2Proof.Config
end

