-- ==== Sys2Proof/Word.lean ====
section
/-!
DEFINITION. The vectors of the block's ports, at the widths of Config.lean (00_scope.md rules R5, R9).
Every vector is numbered from 0 at its least significant bit (rule R6).
-/

namespace Sys2Proof

/-- A Bus Word, 32 bits (30_encoding.md rule R60). -/
abbrev BusWord := BitVec Config.wordW

/-- A data field value, not reversed: 19 bits (rule R9). -/
abbrev Data := BitVec Config.dataW

/-- A status (SSM) code: 2 bits (rules R9, R65). -/
abbrev Status := BitVec Config.ssmW

/-- A source/destination identifier: 2 bits, opaque (rules R9, R64). -/
abbrev Sdi := BitVec Config.sdiW

/-- The label port: three 4-bit digits, `lab[11:8]` = H, `lab[7:4]` = T, `lab[3:0]` = U (rule R66). -/
abbrev Lab := BitVec Config.labW

/-- The 8-bit label digit-pack (rule R67). -/
abbrev Pack := BitVec Config.labelW

/-- A mode code of label 1: 2 bits, 3 is reserved (rule R68). -/
abbrev ModeCode := BitVec Config.modeW

/-- The value port: a 32-bit two's-complement count of the label's unit (rule R9). -/
abbrev Val := BitVec Config.valW

/-- The operation select (rule R76). -/
abbrev Op := BitVec Config.opW

end Sys2Proof
end

