-- ==== Sys2Proof/Machine/Bits.lean ====
section
/-!
DEFINITION. Bit reversal and the count of ones (40_bitfield.md rules R100, R103; 00_scope.md rule R7), and the parity
of a Bus Word (30_encoding.md rule R61).
-/

namespace Sys2Proof

/-- The number whose bit i is bit `w − 1 − i` of `x`, for i below `w` (rule R100): bit 0 of `x` becomes the top bit,
and the rest of `x` is reversed below it. -/
def revBits : Nat → Nat → Nat
  | 0, _ => 0
  | w + 1, x => (x % 2) * 2 ^ w + revBits w (x / 2)

/-- `rev(x, w)` (rule R100). -/
def rev {w : Nat} (x : BitVec w) : BitVec w := BitVec.ofNat w (revBits w x.toNat)

/-- The number of 1 bits among the low `w` bits of `x`. -/
def onesBelow : Nat → Nat → Nat
  | 0, _ => 0
  | w + 1, x => x % 2 + onesBelow w (x / 2)

/-- `popcount(v)` (rule R7). -/
def popcount {w : Nat} (v : BitVec w) : Nat := onesBelow w v.toNat

/-- `valid(word)`: the total count of ones over all 32 bits is odd (rule R61; 90_conflicts.md C1). -/
def wordValid (word : BusWord) : Bool := popcount word % 2 == 1

/-- `word[31:1]`, all bits but the parity field (rule R103). -/
def bodyOf (word : BusWord) : BitVec Config.bodyW :=
  word.extractLsb' Config.parW Config.bodyW

/-- `par(word)`: 1 when `popcount(word[31:1])` is even; `word[0]` is not looked at (rule R103). -/
def par (word : BusWord) : Bool := popcount (bodyOf word) % 2 == 0

/-- `{word[31:1], par(word)}` (rules R104, R170). -/
def withPar (word : BusWord) : BusWord := bodyOf word ++ BitVec.ofBool (par word)

end Sys2Proof
end

