-- ==== Sys2Proof/Syntax.lean ====
section
/-!
DEFINITION. The command and result records (30_encoding.md rules R72 to R75), what a caller can present to the block,
and the instructions: one constructor per row of spec/opcode_table.json, sixteen operations of format CMD (rule R76)
and five Bus Word patterns of format BUSWORD (rule R77).
-/

namespace Sys2Proof

/-- The codec kinds of 10_state.md rule R21. -/
inductive Codec where
  | alt
  | rate
  | angle
  | power
  | flag
  deriving DecidableEq, Repr

/-- The value kinds of rule R74; `code` in Machine/Flags.lean gives the 2-bit number. -/
inductive Kind where
  | none
  | absent
  | present
  deriving DecidableEq, Repr

/-- The reversal width select `wsel` (rules R72, R102): 2, 8 or 19 bits, and the reserved code 3. -/
inductive RevSel where
  | w2
  | w8
  | w19
  | reserved
  deriving DecidableEq, Repr

/-- The command record (rule R72). A field that is not given is 0 (95_test_vectors.md section 3: a field the
operation does not read is "don't care" and is given as 0). -/
structure Command where
  op : Op
  lab : Lab := 0
  sdi : Sdi := 0
  pres : Bool := false
  val : Val := 0
  mode : ModeCode := 0
  word : BusWord := 0
  ssm : Status := 0
  data : Data := 0
  wsel : BitVec 2 := 0
  deriving DecidableEq, Repr

/-- The result record (rule R73). A field that is not given is 0: every field an operation does not write is 0
(rule R75). -/
structure Result where
  err : Bool := false
  valid : Bool := false
  word : BusWord := 0
  lab : Lab := 0
  sdi : Sdi := 0
  ssm : Status := 0
  data : Data := 0
  kind : Kind := .none
  val : Val := 0
  mode : ModeCode := 0
  deriving DecidableEq, Repr

/-- What an encoder of 41_label_codecs.md returns: a status and a data field value, not reversed. -/
structure Encoded where
  ssm : Status
  data : Data
  deriving DecidableEq, Repr

/-- What a decoder of 41_label_codecs.md returns: the triple `kind`, `val`, `mode` (rules R73, R74); a component that
is not given is 0. -/
structure Payload where
  kind : Kind
  val : Val := 0
  mode : ModeCode := 0
  deriving DecidableEq, Repr

/-- The four reversed fields of a Bus Word, un-reversed (rule R63). -/
structure WordFields where
  pack : Pack
  sdi : Sdi
  data : Data
  ssm : Status
  deriving DecidableEq, Repr

/-- What the caller can present: a command record (rule R72), or a bare Bus Word, the second opcode space (rule R77):
its transaction is the one WDEC makes of it.
DESIGN CHOICE (log 5, safe): the spec has the bare word presented on WDEC's `word` port; the model keeps the two
formats of the opcode table apart. -/
inductive Input where
  | command (c : Command)
  | busWord (w : BusWord)
  deriving DecidableEq, Repr

/-- The instructions, each with the fields its operation reads (rule R72).
A physical value is written as rule R79 writes it: a number, or absent (`pres = 0`), in which case `val` is not read
(rule R75). DESIGN CHOICE (log 7, safe): `Option Int` instead of the pair `pres`, `val`. -/
inductive Instr where
  /-- REV: reverse the low bits of `x` (40_bitfield.md rule R102). -/
  | rev (wsel : RevSel) (x : Data)
  /-- PGEN: set the parity bit of a word (rule R104). -/
  | pgen (word : BusWord)
  /-- PCHK: check the parity of a word (rule R105). -/
  | pchk (word : BusWord)
  /-- L1ENC: pack an altitude and a mode code (41_label_codecs.md rule R120). -/
  | l1enc (alt : Option Int) (mode : ModeCode)
  /-- L1DEC: unpack an altitude and a mode code (rule R125). -/
  | l1dec (ssm : Status) (data : Data)
  /-- L2ENC: pack a climb rate (rule R130). -/
  | l2enc (val : Option Int)
  /-- L2DEC: unpack a climb rate (rule R135). -/
  | l2dec (ssm : Status) (data : Data)
  /-- L3ENC: pack a pitch angle (rule R140). -/
  | l3enc (val : Option Int)
  /-- L3DEC: unpack a pitch angle (rule R142). -/
  | l3dec (ssm : Status) (data : Data)
  /-- L4ENC: pack a power value (rule R145). -/
  | l4enc (val : Option Int)
  /-- L4DEC: unpack a power value (rule R147). -/
  | l4dec (ssm : Status) (data : Data)
  /-- L5ENC: pack the automatic/manual flag (rule R150). -/
  | l5enc (val : Option Int)
  /-- L5DEC: unpack the automatic/manual flag (rule R152). -/
  | l5dec (ssm : Status) (data : Data)
  /-- WENC: encode a labelled value into a Bus Word (42_word_codec.md rules R170, R171). -/
  | wenc (lab : Lab) (sdi : Sdi) (val : Option Int) (mode : ModeCode)
  /-- WDEC: decode a Bus Word (rules R172, R173). -/
  | wdec (word : BusWord)
  /-- ERRW: the canonical error word (rule R176). -/
  | errw
  /-- A Bus Word of label 1: its un-reversed fields and its parity bit (rules R77, R125). -/
  | wordL1Alt (sdi : Sdi) (data : Data) (ssm : Status) (p : Bool)
  /-- A Bus Word of label 2 (rules R77, R135). -/
  | wordL2Rate (sdi : Sdi) (data : Data) (ssm : Status) (p : Bool)
  /-- A Bus Word of label 3 (rules R77, R142). -/
  | wordL3Angle (sdi : Sdi) (data : Data) (ssm : Status) (p : Bool)
  /-- A Bus Word of label 4 (rules R77, R147). -/
  | wordL4Power (sdi : Sdi) (data : Data) (ssm : Status) (p : Bool)
  /-- A Bus Word of label 5 (rules R77, R152). -/
  | wordL5Flag (sdi : Sdi) (data : Data) (ssm : Status) (p : Bool)
  deriving DecidableEq, Repr

end Sys2Proof
end

