-- ==== Sys2Proof/Machine/Params.lean ====
section
/-!
DEFINITION. The parameters of 00_scope.md rule R5 that are values: limits, units, ladder steps, digit groups, mode codes, the label-to-codec
table and the error word. The document's literals are unaudited (91_not_in_source.md N2), so each is named here once.
UNVERIFIED (log 15, unsafe): the values are the spec's defaults.
-/

namespace Sys2Proof.Config

/-- `ALT_MAX_FT`: largest altitude magnitude, in feet. -/
def altMaxFt : Nat := 40000

/-- `ALT_FRAC_BITS`: fraction bits of the altitude port; `ALT_UNIT` is 1/512 ft (D11). -/
def altFracBits : Nat := 9

/-- One foot in altitude-port units; the ladder's stop bound "remainder ≤1" (41_label_codecs.md rule R121). -/
def ladderStop : Nat := 2 ^ altFracBits

/-- `ALT_MAX_U`: `ALT_MAX_FT` in altitude-port units. -/
def altMaxU : Nat := altMaxFt * 2 ^ altFracBits

/-- `STEP_U(k)`: the ladder step 40000/2^k ft in altitude-port units, `625 · 2^(15−k)` (rule R121). -/
def stepU (k : Nat) : Nat := 625 * 2 ^ (ladderBits - 1 - k)

/-- `ALT_UNIT`: the unit of the altitude port, 1/512 ft, in feet (D11). -/
def altUnit : ℚ := 1 / 2 ^ altFracBits

/-- `L23_GROUPS`: digit groups of labels 2 and 3. -/
def l23Groups : Nat := 4

/-- `L23_UNIT`: the unit of the value port for labels 2 and 3, in ft/min and in degrees (D15). -/
def l23Unit : ℚ := 1 / 10

/-- `L23_MAX_U`: largest encodable magnitude of labels 2 and 3 (D16). -/
def l23MaxU : Nat := 9999

/-- `L4_GROUPS`: digit groups of label 4, of whose top group the field holds 3 bits (D14). -/
def l4Groups : Nat := 5

/-- `L4_UNIT`: the unit of the value port for label 4, on the power scale 0 to 100 (D15). -/
def l4Unit : ℚ := 1 / 100

/-- `L4_MAX_U`: largest encodable magnitude of label 4 (D14, D16). -/
def l4MaxU : Nat := 79999

/-- `MODE_GROUND`. -/
def modeGround : ModeCode := 0

/-- `MODE_CHANGING`. -/
def modeChanging : ModeCode := 1

/-- `MODE_CRUISE`. -/
def modeCruise : ModeCode := 2

/-- The mode codes that are recognized; code 3 is reserved (R5, R68). -/
def modeRecognized (m : ModeCode) : Bool := m == modeGround || m == modeChanging || m == modeCruise

/-- `REGISTERED` with the codec kind of each label number (10_state.md rule R21; D7): a constant, never written.
UNVERIFIED (log 13, unsafe). -/
def registered : List (Nat × Codec) :=
  [(1, .alt), (2, .rate), (3, .angle), (4, .power), (5, .flag)]

/-- `ERROR_WORD` (42_word_codec.md rule R176; D18). UNVERIFIED (log 9, unsafe): the spec's default of a named parameter,
whose other candidate is 0x00000001. -/
def errorWord : BusWord := 0x00000004

/-- The widths of `REV_WIDTHS` by width select; the reserved code has none (40_bitfield.md rule R102). -/
def revWidth : RevSel → Option Nat
  | .w2 => some 2
  | .w8 => some 8
  | .w19 => some 19
  | .reserved => none

/-- The label 5 encoder on a present value (41_label_codecs.md rule R150; D8, which asks for a configuration field).
UNVERIFIED (log 10, unsafe). -/
def label5Enc : Option Int → Encoded
  | none => { ssm := 1, data := 0 }
  | some v => { ssm := 0, data := if v ≠ 0 then 1 else 0 }

/-- The label 5 decoder (rule R152; D8). UNVERIFIED (log 10, unsafe). -/
def label5Dec (ssm : Status) (data : Data) : Payload :=
  if ssm = 1 then { kind := .absent }
  else { kind := .present, val := if data ≠ 0 then 1 else 0 }

end Sys2Proof.Config
end

