-- ==== Sys2Proof/Machine/Operands.lean ====
section
/-!
DEFINITION. The operand forms: the fields of a Bus Word (30_encoding.md rules R60 to R63), the label port and its
digit-pack (rules R66, R67), the codec lookup (42_word_codec.md rule R174), the reversal operand (40_bitfield.md
rule R102) and the magnitude of a value (41_label_codecs.md, header).
-/

namespace Sys2Proof

/-! ### The Bus Word -/

/-- Extraction (rule R63): each field un-reversed over its own width. -/
def extractFields (word : BusWord) : WordFields where
  pack := rev (word.extractLsb' Config.labelLo Config.labelW)
  sdi := rev (word.extractLsb' Config.sdiLo Config.sdiW)
  data := rev (word.extractLsb' Config.dataLo Config.dataW)
  ssm := rev (word.extractLsb' Config.ssmLo Config.ssmW)

/-- The parity bit `word[0]` (rule R60). -/
def parityBit (word : BusWord) : Bool := word.getLsbD 0

/-- Assembly before parity (rule R63): each field reversed and placed at its lowest word bit. -/
def assembleBody (f : WordFields) : BusWord :=
  (rev f.pack).setWidth Config.wordW <<< Config.labelLo ||| (rev f.sdi).setWidth Config.wordW <<< Config.sdiLo |||
    (rev f.data).setWidth Config.wordW <<< Config.dataLo ||| (rev f.ssm).setWidth Config.wordW <<< Config.ssmLo

/-- Assembly with the parity bit of rule R61. -/
def assemble (f : WordFields) : BusWord := withPar (assembleBody f)

/-- The word of a pattern of rule R77: the label field as it stands in the word, the other fields reversed, and a
given parity bit, right or wrong. -/
def patternWord (labelField : Pack) (sdi : Sdi) (data : Data) (ssm : Status) (p : Bool) : BusWord :=
  labelField ++ rev sdi ++ rev data ++ rev ssm ++ BitVec.ofBool p

/-! ### The label -/

/-- H, T and U of the label port (rule R66). -/
def labH (lab : Lab) : Nat := (lab.extractLsb' 8 4).toNat

@[inherit_doc labH] def labT (lab : Lab) : Nat := (lab.extractLsb' 4 4).toNat

@[inherit_doc labH] def labU (lab : Lab) : Nat := (lab.extractLsb' 0 4).toNat

/-- The digits are in range: T, U ≤ 7 and H ≤ 3 (rule R66). -/
def labInRange (lab : Lab) : Bool := decide (labH lab ≤ 3 ∧ labT lab ≤ 7 ∧ labU lab ≤ 7)

/-- The label number, the decimal reading of the digits (rule R66). -/
def labNumber (lab : Lab) : Nat := 100 * labH lab + 10 * labT lab + labU lab

/-- The digit-pack `64·H + 8·T + U` of a label in range (rule R67; D5, log 13). -/
def packOfLab (lab : Lab) : Pack := BitVec.ofNat Config.labelW (64 * labH lab + 8 * labT lab + labU lab)

/-- The digits of a pack on the label port: H = `pack[7:6]`, T = `pack[5:3]`, U = `pack[2:0]` (rules R67, R172). -/
def labOfPack (pack : Pack) : Lab :=
  (pack.extractLsb' 6 2).setWidth 4 ++ (pack.extractLsb' 3 3).setWidth 4 ++ (pack.extractLsb' 0 3).setWidth 4

/-- `codec_of(H, T, U)` (rule R174): none for a digit out of range and for a label without an entry in the table
(D6, D7, log 13). -/
def codecOf (lab : Lab) : Option Codec :=
  if labInRange lab then Config.registered.lookup (labNumber lab) else none

/-! ### Values -/

/-- `M = |V|`, on mathematical integers, so it never wraps (R7, R157). -/
def magnitude (v : Int) : Nat := v.natAbs

/-- The value port of an integer that fits it, `sext_32(v)` (rules R125, R135). -/
def valPort (v : Int) : Val := BitVec.ofInt Config.valW v

/-! ### The reversal operand -/

/-- The low `w` bits of the operand reversed and zero-extended to 19 bits; the bits at and above `w` are ignored
(rule R102; D22, log 14). -/
def revLow (w : Nat) (x : Data) : Data := (rev (x.setWidth w)).setWidth Config.dataW

end Sys2Proof
end

