-- ==== Sys2Proof/WellFormed.lean ====
section
/-!
DEFINITION. Which instructions a caller can present: those whose physical value fits the 32-bit signed value port
(00_scope.md rule R9; 93_implementation_defined.md V22: a value that does not fit "cannot be presented on the ports").
Every other operand is a vector of its port's width, so nothing else can be ill-formed: "there is no forbidden command"
(70_reset_and_hazards.md rule R223).
-/

namespace Sys2Proof

/-- The integers of the signed value port, −2^31 to 2^31 − 1 (rule R9). -/
def fitsVal (v : Int) : Bool := decide (-2147483648 ≤ v ∧ v ≤ 2147483647)

/-- A physical value that can be presented: absent, or a number that fits the port. -/
def presentable : Option Int → Bool
  | none => true
  | some v => fitsVal v

/-- Well-formedness of an instruction. -/
def Instr.wellFormed : Instr → Bool
  | .rev _ _ => true
  | .pgen _ => true
  | .pchk _ => true
  | .l1enc alt _ => presentable alt
  | .l1dec _ _ => true
  | .l2enc val => presentable val
  | .l2dec _ _ => true
  | .l3enc val => presentable val
  | .l3dec _ _ => true
  | .l4enc val => presentable val
  | .l4dec _ _ => true
  | .l5enc val => presentable val
  | .l5dec _ _ => true
  | .wenc _ _ val _ => presentable val
  | .wdec _ => true
  | .errw => true
  | .wordL1Alt _ _ _ _ => true
  | .wordL2Rate _ _ _ _ => true
  | .wordL3Angle _ _ _ _ => true
  | .wordL4Power _ _ _ _ => true
  | .wordL5Flag _ _ _ _ => true

end Sys2Proof
end

