-- ==== Sys2Proof/Decode.lean ====
section
/-!
DEFINITION. The decoder: from what the caller presents to an instruction, total, rejecting by name; after it the
encoder, from the same tables (30_encoding.md rules R72, R76, R77), and both on bits numbered as
spec/opcode_table.json numbers them.
-/

namespace Sys2Proof

/-- Why an input is no row of the opcode table. -/
inductive DecodeError where
  /-- The label field of a bare Bus Word selects none of the five patterns of rule R77. The word still has a result:
  `valid = 0` (42_word_codec.md rule R173), which Machine/Step.lean answers. -/
  | noCodec (labelField : Pack)
  deriving DecidableEq, Repr

/-- The width select (rules R72, R102). -/
def decodeWsel (wsel : BitVec 2) : RevSel :=
  match wsel.toNat with
  | 0 => .w2
  | 1 => .w8
  | 2 => .w19
  | _ => .reserved

/-- The physical value of a command: absent when `pres = 0`, and then `val` is not read (rules R75, R79). -/
def decodeValue (c : Command) : Option Int := if c.pres then some c.val.toInt else none

/-- Operation select (rule R76): all sixteen codes are assigned, so a command always decodes; the last line is 0xF.
Each instruction takes the fields its operation reads (rule R72) and no other (rule R75). -/
def decodeCommand (c : Command) : Instr :=
  match c.op.toNat with
  | 0x0 => .rev (decodeWsel c.wsel) c.data
  | 0x1 => .pgen c.word
  | 0x2 => .pchk c.word
  | 0x3 => .l1enc (decodeValue c) c.mode
  | 0x4 => .l1dec c.ssm c.data
  | 0x5 => .l2enc (decodeValue c)
  | 0x6 => .l2dec c.ssm c.data
  | 0x7 => .l3enc (decodeValue c)
  | 0x8 => .l3dec c.ssm c.data
  | 0x9 => .l4enc (decodeValue c)
  | 0xA => .l4dec c.ssm c.data
  | 0xB => .l5enc (decodeValue c)
  | 0xC => .l5dec c.ssm c.data
  | 0xD => .wenc c.lab c.sdi (decodeValue c) c.mode
  | 0xE => .wdec c.word
  | _ => .errw

/-- The second opcode space (rule R77): `word[31:24]` alone selects the pattern; the other fields are un-reversed
(rule R63). The other 251 label fields select none. -/
def decodeBusWord (word : BusWord) : Except DecodeError Instr :=
  let f := extractFields word
  let p := parityBit word
  match (word.extractLsb' Config.labelLo Config.labelW).toNat with
  | 0x80 => .ok (.wordL1Alt f.sdi f.data f.ssm p)
  | 0x40 => .ok (.wordL2Rate f.sdi f.data f.ssm p)
  | 0xC0 => .ok (.wordL3Angle f.sdi f.data f.ssm p)
  | 0x20 => .ok (.wordL4Power f.sdi f.data f.ssm p)
  | 0xA0 => .ok (.wordL5Flag f.sdi f.data f.ssm p)
  | _ => .error (.noCodec (word.extractLsb' Config.labelLo Config.labelW))

/-- The decoder. -/
def decode : Input → Except DecodeError Instr
  | .command c => .ok (decodeCommand c)
  | .busWord w => decodeBusWord w

/-! ### The encoder -/

/-- `wsel` of a width select (rule R72). -/
def encodeWsel : RevSel → BitVec 2
  | .w2 => 0
  | .w8 => 1
  | .w19 => 2
  | .reserved => 3

/-- A command of an operation that takes a physical value (rule R79: `absent` is `pres = 0`). -/
def commandWithValue (op : Op) : Option Int → Command
  | none => { op := op }
  | some v => { op := op, pres := true, val := BitVec.ofInt Config.valW v }

/-- The command record or the Bus Word of an instruction (rules R72, R76, R77); a field that is not read is 0. -/
def encode : Instr → Input
  | .rev wsel x => .command { op := 0x0, wsel := encodeWsel wsel, data := x }
  | .pgen word => .command { op := 0x1, word := word }
  | .pchk word => .command { op := 0x2, word := word }
  | .l1enc alt mode => .command { commandWithValue 0x3 alt with mode := mode }
  | .l1dec ssm data => .command { op := 0x4, ssm := ssm, data := data }
  | .l2enc val => .command (commandWithValue 0x5 val)
  | .l2dec ssm data => .command { op := 0x6, ssm := ssm, data := data }
  | .l3enc val => .command (commandWithValue 0x7 val)
  | .l3dec ssm data => .command { op := 0x8, ssm := ssm, data := data }
  | .l4enc val => .command (commandWithValue 0x9 val)
  | .l4dec ssm data => .command { op := 0xA, ssm := ssm, data := data }
  | .l5enc val => .command (commandWithValue 0xB val)
  | .l5dec ssm data => .command { op := 0xC, ssm := ssm, data := data }
  | .wenc lab sdi val mode => .command { commandWithValue 0xD val with lab := lab, sdi := sdi, mode := mode }
  | .wdec word => .command { op := 0xE, word := word }
  | .errw => .command { op := 0xF }
  | .wordL1Alt sdi data ssm p => .busWord (patternWord 0x80 sdi data ssm p)
  | .wordL2Rate sdi data ssm p => .busWord (patternWord 0x40 sdi data ssm p)
  | .wordL3Angle sdi data ssm p => .busWord (patternWord 0xC0 sdi data ssm p)
  | .wordL4Power sdi data ssm p => .busWord (patternWord 0x20 sdi data ssm p)
  | .wordL5Flag sdi data ssm p => .busWord (patternWord 0xA0 sdi data ssm p)

/-! ### Bits, numbered as the opcode table numbers them

The command record has no packed layout, its fields being separate ports (95_test_vectors.md section 3).
DESIGN CHOICE (log 4, safe): the fields stand in the order of rule R72 from bit 0 up, `op` lowest, 108 bits in all; an
instruction of 32 bits is a Bus Word, every other one a command. -/

/-- The command of a 108-bit number. -/
def commandOfBits (b : BitVec 108) : Command where
  op := b.extractLsb' 0 4
  lab := b.extractLsb' 4 12
  sdi := b.extractLsb' 16 2
  pres := b.getLsbD 18
  val := b.extractLsb' 19 32
  mode := b.extractLsb' 51 2
  word := b.extractLsb' 53 32
  ssm := b.extractLsb' 85 2
  data := b.extractLsb' 87 19
  wsel := b.extractLsb' 106 2

/-- The 108-bit number of a command. -/
def commandBits (c : Command) : BitVec 108 :=
  c.wsel ++ c.data ++ c.ssm ++ c.word ++ c.mode ++ c.val ++ BitVec.ofBool c.pres ++ c.sdi ++ c.lab ++ c.op

/-- What is presented when the caller's instruction has `nbits` bits with the value `w`.
DESIGN CHOICE (log 21, unsafe): of a number that does not fit its bits the low ones are read. The spec leaves open what
becomes of a word number that does not fit 32 bits (20_memory.md rule R42; 91_not_in_source.md N7); the block's own port
never meets one, being a 32-bit vector. -/
def inputOfBits (nbits w : Nat) : Input :=
  if nbits = 32 then .busWord (BitVec.ofNat 32 w)
  else .command (commandOfBits (BitVec.ofNat 108 (w % 2 ^ nbits)))

/-- The bits of an input: 32 for a Bus Word, 112 (fourteen whole bytes) for a command. -/
def bitsOfInput : Input → Nat × Nat
  | .busWord w => (32, w.toNat)
  | .command c => (112, (commandBits c).toNat)

/-- The instruction the decoder reads from an instruction whose bits are `w`; none where it rejects. -/
def decodeTableWord (nbits w : Nat) : Option Instr :=
  match decode (inputOfBits nbits w) with
  | .ok i => some i
  | .error _ => none

/-- The bits of an instruction, as many and numbered as `decodeTableWord` reads them. -/
def encodeTableWord (i : Instr) : Nat × Nat := bitsOfInput (encode i)

end Sys2Proof
end

