-- ==== Sys2Proof/Machine/Flags.lean ====
section
/-!
DEFINITION. The indications of a result: `err`, `valid` and `kind` (10_state.md rule R23; 30_encoding.md rules R73 to
R75), and the records of a refusal and of an invalid word (60_exceptions.md rules R201 to R203).
-/

namespace Sys2Proof

/-- The 2-bit number of a value kind (rule R74). -/
def kindCode : Kind → BitVec 2
  | .none => 0
  | .absent => 1
  | .present => 2

/-- `valid = 0` and every other field 0 (rules R75, R203; D20, log 16). -/
def invalidResult : Result := {}

/-- REV's refusal `E_WSEL`: `err = 1`, `data = 0` (rule R201; D22, log 14). -/
def wselRefusal : Result := { err := true }

/-- WENC's refusal `E_NOCODEC`: `err = 1` with the error word (42_word_codec.md rule R171; D19, log 9). -/
def noCodecRefusal : Result := { err := true, word := Config.errorWord }

/-- The result of an encoder: its status and data; no indication is set (rule R155). -/
def encodedResult (e : Encoded) : Result := { ssm := e.ssm, data := e.data }

/-- The result of a decoder: `kind`, `val`, `mode` (rules R73, R155). -/
def payloadResult (p : Payload) : Result := { kind := p.kind, val := p.val, mode := p.mode }

/-- The result of decoding a word whose parity and label passed (42_word_codec.md rule R172). -/
def deliveredResult (lab : Lab) (sdi : Sdi) (ssm : Status) (p : Payload) : Result :=
  { valid := true, lab := lab, sdi := sdi, ssm := ssm, kind := p.kind, val := p.val, mode := p.mode }

end Sys2Proof
end

