-- ==== Sys2Proof/Machine/State.lean ====
section
/-!
DEFINITION. The machine's state. The block itself has none (10_state.md rules R20 to R25, R27): no register, no memory,
no program counter, no flag, no mode. What a step acts on is what stands at the block's ports: the transactions the
caller has lined up, and the pairs of command and result a run leaves behind (70_reset_and_hazards.md rule R226).
No operation reads any of it (rule R25).
-/

namespace Sys2Proof.Machine

/-- The transactions at the block's ports. DESIGN CHOICE (log 1, safe): the three fields are the model's own. -/
structure State where
  /-- What the caller has lined up, oldest first (20_memory.md rule R45). -/
  issued : List Input
  /-- The commands of the transactions made so far, newest first (rule R226). -/
  taken : List Input
  /-- Their results, newest first (rule R226); the head is the result port. -/
  results : List Result
  deriving DecidableEq, Repr

/-- After reset no transaction has been made: the block holds nothing that reset could change, and the result port has
no value before the first transaction (70_reset_and_hazards.md rule R220; log 2). -/
def State.reset : State where
  issued := []
  taken := []
  results := []

/-- The result port: the record of the last transaction; before the first it has no value (rule R220; log 2, safe). -/
def State.resultPort (s : State) : Option Result := s.results.head?

/-- No fault exists: "a model has therefore no fault outcome and no stuck outcome for this block"
(60_exceptions.md rule R200), so nobody raises one. Safe. -/
inductive Fault where
  deriving DecidableEq, Repr

/-- Why a step refuses. -/
inductive Refusal where
  /-- Raised by an arm of Machine/Dispatch.lean for an instruction without a meaning. Safe: the model stops. No arm of
  this model raises it. -/
  | notModelled (mnemonic : String)
  deriving DecidableEq, Repr

/-- The outcome of an instruction. -/
abbrev Out := Host.Outcome State Fault Refusal

end Sys2Proof.Machine
end

