-- ==== Sys2Proof/Machine/Ops.lean ====
section
/-!
DEFINITION. The named operations over the state: presenting, taking and answering a transaction. There is no memory and
no register to operate on (10_state.md rule R20, 20_memory.md rule R40), and no exception is taken and none returned
from (60_exceptions.md rules R200, R207).
-/

namespace Sys2Proof.Machine

/-- The caller presents an input next. -/
def State.present (s : State) (p : Input) : State := { s with issued := p :: s.issued }

/-- The transaction of an input begins: it leaves the caller's list and joins the run's (20_memory.md rule R45). -/
def State.take (s : State) (p : Input) (rest : List Input) : State :=
  { s with issued := rest, taken := p :: s.taken }

/-- The transaction completes with a result record; nothing else changes (rules R25, R44). -/
def State.answer (s : State) (r : Result) : State := { s with results := r :: s.results }

/-- Completing a transaction is all an operation does: no trap, no refusal (60_exceptions.md rule R200). -/
def complete (r : Result) (s : State) : Out := .next (s.answer r)

/-- The transaction of a bare Bus Word whose label field selects no codec: `valid = 0`, all other fields 0
(42_word_codec.md rule R173). DEDUCED (log 6, safe). -/
def answerRejected : DecodeError → State → Out
  | .noCodec _, s => complete invalidResult s

/-- With nothing issued the block does nothing (70_reset_and_hazards.md rule R226: it has no halt operation and no final
state). DESIGN CHOICE (log 3, safe). -/
def idle (s : State) : Out := .next s

end Sys2Proof.Machine
end

