-- ==== Sys2Proof/Machine/BitField.lean ====
section
/-!
DEFINITION. The BitField utilities: REV, PGEN, PCHK (40_bitfield.md).
-/

namespace Sys2Proof.Machine

/-- REV's result (rule R102). -/
def revResult (wsel : RevSel) (x : Data) : Result :=
  match Config.revWidth wsel with
  | none => wselRefusal
  | some w => { data := revLow w x }

/-- REV (rule R102). -/
def execRev (wsel : RevSel) (x : Data) (s : State) : Out := complete (revResult wsel x) s

/-- PGEN (rule R104): `word[31:1]` unchanged, `word[0]` replaced, whatever it was (D30). -/
def execPgen (word : BusWord) (s : State) : Out := complete { word := withPar word } s

/-- PCHK (rule R105): an invalid word is a result, not an error. -/
def execPchk (word : BusWord) (s : State) : Out := complete { valid := wordValid word } s

end Sys2Proof.Machine
end

