-- ==== Sys2Proof/Machine/LabelCodecs.lean ====
section
/-!
DEFINITION. The Label Value Codecs: L1ENC to L5DEC (41_label_codecs.md). Each works on the un-reversed data value and
the plain status code, reads no state and never refuses (rule R155).
-/

namespace Sys2Proof.Machine

/-! ### The altitude ladder -/

/-- A ladder code (rule R121). -/
abbrev Ladder := BitVec Config.ladderBits

/-- The greedy ladder with `n` steps left, of which the next is step `16 − n` with code bit `n − 1` (rule R121): stop at
a remainder of one foot or less, else take the step if it fits the remainder (`>=`, D10, log 11). -/
def ladderFrom : Nat → Nat → Nat
  | 0, _ => 0
  | n + 1, r =>
    if r ≤ Config.ladderStop then 0
    else if Config.stepU (Config.ladderBits - 1 - n) ≤ r then 2 ^ n + ladderFrom n (r - Config.stepU (Config.ladderBits - 1 - n))
    else ladderFrom n r

/-- `ladder_enc(M)`, 16 bits (rule R121). -/
def ladderEnc (m : Nat) : Ladder := BitVec.ofNat Config.ladderBits (ladderFrom Config.ladderBits m)

/-- `ladder_dec(code)`: the sum of the steps of the set bits, code bit `15 − k` belonging to step k (rule R122). -/
def ladderDec (code : Ladder) : Nat :=
  ((List.range Config.ladderBits).map fun k => if code.getLsbD (Config.ladderBits - 1 - k) then Config.stepU k else 0).sum

/-! ### Label 1 -/

/-- The altitude block: the sign bit over the ladder (30_encoding.md rule R68; D9, log 11). -/
def altBlock (sign : Bool) (code : Ladder) : BitVec Config.altBlockW := BitVec.ofBool sign ++ code

/-- L1ENC (rule R120): an unrecognized mode is tested first, then absence, then the range (60_exceptions.md rule R206).
The layout is `data[18]` sign, `data[17:2]` ladder, `data[1:0]` mode (D9, D10, log 11). -/
def l1enc (alt : Option Int) (mode : ModeCode) : Encoded :=
  if Config.modeRecognized mode = false then { ssm := 0, data := 0 }
  else match alt with
    | none => { ssm := 1, data := mode.setWidth Config.dataW }
    | some v =>
      if Config.altMaxU < magnitude v then { ssm := 0, data := 0 }
      else { ssm := 3, data := altBlock (decide (v < 0)) (ladderEnc (magnitude v)) ++ mode }

/-- L1DEC (rule R125): statuses 0 and 2 and an unrecognized mode give kind NONE (D12, log 11); no range check on the
magnitude (D13, log 11). -/
def l1dec (ssm : Status) (data : Data) : Payload :=
  let m := data.extractLsb' 0 Config.modeW
  if ssm = 0 ∨ ssm = 2 then { kind := .none }
  else if Config.modeRecognized m = false then { kind := .none }
  else if ssm = 1 then { kind := .absent, mode := m }
  else
    let mag : Int := ladderDec (data.extractLsb' Config.ladderLo Config.ladderBits)
    { kind := .present, val := valPort (if data.getLsbD Config.signAt then -mag else mag), mode := m }

/-! ### Decimal digit groups -/

/-- The lowest `n` decimal digits of `m`, the digit of weight 10^i in the 4-bit group i (rule R128; D14, log 12). -/
def packDigits : Nat → Nat → Nat
  | 0, _ => 0
  | n + 1, m => m % 10 + 16 * packDigits n (m / 10)

/-- The number that the lowest `n` 4-bit groups of `d` stand for, group i counting 10^i times the number it holds,
decimal digit or not (rule R128; D17, log 12). -/
def unpackDigits : Nat → Nat → Nat
  | 0, _ => 0
  | n + 1, d => d % 16 + 10 * unpackDigits n (d / 16)

/-- `dpack4(M)` (rule R128), on the data field. -/
def dpack4 (m : Nat) : Data := BitVec.ofNat Config.dataW (packDigits Config.l23Groups m)

/-- `dpack5(M)` (rule R128): the field ends after the third bit of the top group, which is all that a magnitude in
range needs (D14, log 12). -/
def dpack5 (m : Nat) : Data := BitVec.ofNat Config.dataW (packDigits Config.l4Groups m)

/-- `dunpack4(d)` (rule R128): `d[18:16]` is ignored (D17, log 12). -/
def dunpack4 (data : Data) : Nat := unpackDigits Config.l23Groups data.toNat

/-- `dunpack5(d)` (rule R128): the field leaves the top group three bits. -/
def dunpack5 (data : Data) : Nat := unpackDigits Config.l4Groups data.toNat

/-! ### Labels 2 to 4: a signed decimal quantity -/

/-- The encoder that labels 2, 3 and 4 share (rules R130, R140, R145): absence is tested before the range, the
out-of-range sentinel is (1, 0) (D16, log 12), and the sign is the status (D26). -/
def decimalEnc (maxU : Nat) (digits : Nat → Data) : Option Int → Encoded
  | none => { ssm := 1, data := 0 }
  | some v =>
    if maxU < magnitude v then { ssm := 1, data := 0 }
    else { ssm := if v < 0 then 3 else 0, data := digits (magnitude v) }

/-- The decoder that labels 2, 3 and 4 share (rules R135, R142, R147): status 1 is absent, status 3 negative, every
other status positive (F3). -/
def decimalDec (number : Data → Nat) (ssm : Status) (data : Data) : Payload :=
  if ssm = 1 then { kind := .absent }
  else
    let mag : Int := number data
    { kind := .present, val := valPort (if ssm = 3 then -mag else mag) }

/-- L2ENC (rule R130). -/
def l2enc (val : Option Int) : Encoded := decimalEnc Config.l23MaxU dpack4 val

/-- L2DEC (rule R135). -/
def l2dec (ssm : Status) (data : Data) : Payload := decimalDec dunpack4 ssm data

/-- L3ENC (rule R140). -/
def l3enc (val : Option Int) : Encoded := decimalEnc Config.l23MaxU dpack4 val

/-- L3DEC (rule R142). -/
def l3dec (ssm : Status) (data : Data) : Payload := decimalDec dunpack4 ssm data

/-- L4ENC (rule R145). -/
def l4enc (val : Option Int) : Encoded := decimalEnc Config.l4MaxU dpack5 val

/-- L4DEC (rule R147). -/
def l4dec (ssm : Status) (data : Data) : Payload := decimalDec dunpack5 ssm data

/-! ### Label 5: the configuration's codec pair -/

/-- L5ENC (rule R150). -/
def l5enc (val : Option Int) : Encoded := Config.label5Enc val

/-- L5DEC (rule R152). -/
def l5dec (ssm : Status) (data : Data) : Payload := Config.label5Dec ssm data

/-! ### The operations -/

/-- L1ENC (rule R120). -/
def execL1enc (alt : Option Int) (mode : ModeCode) (s : State) : Out := complete (encodedResult (l1enc alt mode)) s

/-- L1DEC (rule R125). -/
def execL1dec (ssm : Status) (data : Data) (s : State) : Out := complete (payloadResult (l1dec ssm data)) s

/-- L2ENC (rule R130). -/
def execL2enc (val : Option Int) (s : State) : Out := complete (encodedResult (l2enc val)) s

/-- L2DEC (rule R135). -/
def execL2dec (ssm : Status) (data : Data) (s : State) : Out := complete (payloadResult (l2dec ssm data)) s

/-- L3ENC (rule R140). -/
def execL3enc (val : Option Int) (s : State) : Out := complete (encodedResult (l3enc val)) s

/-- L3DEC (rule R142). -/
def execL3dec (ssm : Status) (data : Data) (s : State) : Out := complete (payloadResult (l3dec ssm data)) s

/-- L4ENC (rule R145). -/
def execL4enc (val : Option Int) (s : State) : Out := complete (encodedResult (l4enc val)) s

/-- L4DEC (rule R147). -/
def execL4dec (ssm : Status) (data : Data) (s : State) : Out := complete (payloadResult (l4dec ssm data)) s

/-- L5ENC (rule R150). -/
def execL5enc (val : Option Int) (s : State) : Out := complete (encodedResult (l5enc val)) s

/-- L5DEC (rule R152). -/
def execL5dec (ssm : Status) (data : Data) (s : State) : Out := complete (payloadResult (l5dec ssm data)) s

end Sys2Proof.Machine
end

