-- ==== Sys2Proof/Machine/BusWords.lean ====
section
/-!
DEFINITION. The five Bus Word patterns of 30_encoding.md rule R77, each with the decode semantics of its label
(42_word_codec.md rule R172): the transaction WDEC makes of such a word.
-/

namespace Sys2Proof.Machine

/-- The result of a received word whose label selects a codec: what the codec decodes, if the parity check over all 32
bits passes, and `valid = 0` with all other fields 0 if it does not (rules R61, R172). -/
def receivedResult (word : BusWord) (lab : Lab) (sdi : Sdi) (ssm : Status) (payload : Payload) : Result :=
  if wordValid word then deliveredResult lab sdi ssm payload else invalidResult

/-- A Bus Word of label 001 (rules R77, R125). -/
def execWordL1Alt (sdi : Sdi) (data : Data) (ssm : Status) (p : Bool) (s : State) : Out :=
  complete (receivedResult (patternWord 0x80 sdi data ssm p) 0x001 sdi ssm (l1dec ssm data)) s

/-- A Bus Word of label 002 (rules R77, R135). -/
def execWordL2Rate (sdi : Sdi) (data : Data) (ssm : Status) (p : Bool) (s : State) : Out :=
  complete (receivedResult (patternWord 0x40 sdi data ssm p) 0x002 sdi ssm (l2dec ssm data)) s

/-- A Bus Word of label 003 (rules R77, R142). -/
def execWordL3Angle (sdi : Sdi) (data : Data) (ssm : Status) (p : Bool) (s : State) : Out :=
  complete (receivedResult (patternWord 0xC0 sdi data ssm p) 0x003 sdi ssm (l3dec ssm data)) s

/-- A Bus Word of label 004 (rules R77, R147). -/
def execWordL4Power (sdi : Sdi) (data : Data) (ssm : Status) (p : Bool) (s : State) : Out :=
  complete (receivedResult (patternWord 0x20 sdi data ssm p) 0x004 sdi ssm (l4dec ssm data)) s

/-- A Bus Word of label 005 (rules R77, R152). -/
def execWordL5Flag (sdi : Sdi) (data : Data) (ssm : Status) (p : Bool) (s : State) : Out :=
  complete (receivedResult (patternWord 0xA0 sdi data ssm p) 0x005 sdi ssm (l5dec ssm data)) s

end Sys2Proof.Machine
end

