-- ==== Sys2Proof/Machine/WordCodec.lean ====
section
/-!
DEFINITION. The Word Codec: WENC, WDEC, ERRW (42_word_codec.md), compositions of the BitField utilities and the Label
Value Codecs, and nothing else.
-/

namespace Sys2Proof.Machine

/-- The encoder of a codec; only label 1 reads the mode (rule R170, D32). -/
def encodeBy (c : Codec) (val : Option Int) (mode : ModeCode) : Encoded :=
  match c with
  | .alt => l1enc val mode
  | .rate => l2enc val
  | .angle => l3enc val
  | .power => l4enc val
  | .flag => l5enc val

/-- The decoder of a codec (rule R172). -/
def decodeBy (c : Codec) (ssm : Status) (data : Data) : Payload :=
  match c with
  | .alt => l1dec ssm data
  | .rate => l2dec ssm data
  | .angle => l3dec ssm data
  | .power => l4dec ssm data
  | .flag => l5dec ssm data

/-- WENC's result (rules R170, R171): the lookup comes first, then the value codec, then reversal and assembly, then
parity. -/
def wencResult (lab : Lab) (sdi : Sdi) (val : Option Int) (mode : ModeCode) : Result :=
  match codecOf lab with
  | none => noCodecRefusal
  | some c =>
    let e := encodeBy c val mode
    { word := assemble { pack := packOfLab lab, sdi := sdi, data := e.data, ssm := e.ssm } }

/-- WDEC's result (rules R172, R173): parity first, then extraction, the label lookup and the value codec. -/
def wdecResult (word : BusWord) : Result :=
  if wordValid word then
    let f := extractFields word
    let lab := labOfPack f.pack
    match codecOf lab with
    | none => invalidResult
    | some c => deliveredResult lab f.sdi f.ssm (decodeBy c f.ssm f.data)
  else invalidResult

/-- WENC (rules R170, R171). -/
def execWenc (lab : Lab) (sdi : Sdi) (val : Option Int) (mode : ModeCode) (s : State) : Out :=
  complete (wencResult lab sdi val mode) s

/-- WDEC (rules R172, R173). -/
def execWdec (word : BusWord) (s : State) : Out := complete (wdecResult word) s

/-- ERRW (rule R176). -/
def execErrw (s : State) : Out := complete { word := Config.errorWord } s

end Sys2Proof.Machine
end

