-- ==== Sys2Proof/Machine/Dispatch.lean ====
section
/-!
DEFINITION. Which meaning each instruction has: one arm per row of spec/opcode_table.json.
-/

namespace Sys2Proof.Machine

def exec (i : Instr) (s : State) : Host.Outcome State Fault Refusal :=
  match i with
  -- BitField utilities (40_bitfield.md)
  | .rev wsel x => Sys2Proof.Machine.execRev wsel x s
  | .pgen word => Sys2Proof.Machine.execPgen word s
  | .pchk word => Sys2Proof.Machine.execPchk word s
  -- Label Value Codecs (41_label_codecs.md)
  | .l1enc alt mode => Sys2Proof.Machine.execL1enc alt mode s
  | .l1dec ssm data => Sys2Proof.Machine.execL1dec ssm data s
  | .l2enc val => Sys2Proof.Machine.execL2enc val s
  | .l2dec ssm data => Sys2Proof.Machine.execL2dec ssm data s
  | .l3enc val => Sys2Proof.Machine.execL3enc val s
  | .l3dec ssm data => Sys2Proof.Machine.execL3dec ssm data s
  | .l4enc val => Sys2Proof.Machine.execL4enc val s
  | .l4dec ssm data => Sys2Proof.Machine.execL4dec ssm data s
  | .l5enc val => Sys2Proof.Machine.execL5enc val s
  | .l5dec ssm data => Sys2Proof.Machine.execL5dec ssm data s
  -- Word Codec (42_word_codec.md)
  | .wenc lab sdi val mode => Sys2Proof.Machine.execWenc lab sdi val mode s
  | .wdec word => Sys2Proof.Machine.execWdec word s
  | .errw => Sys2Proof.Machine.execErrw s
  -- Bus Words (30_encoding.md rule R77)
  | .wordL1Alt sdi data ssm p => Sys2Proof.Machine.execWordL1Alt sdi data ssm p s
  | .wordL2Rate sdi data ssm p => Sys2Proof.Machine.execWordL2Rate sdi data ssm p s
  | .wordL3Angle sdi data ssm p => Sys2Proof.Machine.execWordL3Angle sdi data ssm p s
  | .wordL4Power sdi data ssm p => Sys2Proof.Machine.execWordL4Power sdi data ssm p s
  | .wordL5Flag sdi data ssm p => Sys2Proof.Machine.execWordL5Flag sdi data ssm p s

end Sys2Proof.Machine
end

