-- ==== Sys2Proof/Machine/Step.lean ====
section
/-!
DEFINITION. One transaction (20_memory.md rule R45): the oldest input the caller has issued is taken, decoded and
answered.
-/

namespace Sys2Proof.Machine

/-- One step. The block fetches nothing (10_state.md rule R22); the input comes from the caller. -/
def step (s : State) : Host.Outcome State Fault Refusal :=
  match s.issued with
  | [] => idle s
  | p :: rest =>
    match decode p with
    | .ok i => exec i (s.take p rest)
    | .error e => answerRejected e (s.take p rest)

/-- The state in which the caller presents next the instruction whose bits are `w` (log 8): the very next step makes
its transaction. -/
def State.withFetchWord (s : State) (nbits w : Nat) : State := s.present (inputOfBits nbits w)

end Sys2Proof.Machine
end

