-- ==== Sys2Proof/Safety.lean ====
section
/-!
DEFINITION. The terms in which claims are stated: what it means that an instruction answers a result, what a run leaves
behind, and the rows of the spec's own tables that claims quote (30_encoding.md rule R77, 42_word_codec.md rule R172).
-/

namespace Sys2Proof.Machine

/-- The instruction answers a next state, its result record is `r`, and nothing else at the ports changes
(10_state.md rule R25; 60_exceptions.md rule R200). -/
def Answers (i : Instr) (s : State) (r : Result) : Prop :=
  exec i s = .next { s with results := r :: s.results }

/-- The number of 1 bits of a vector, counted bit by bit. -/
def onesIn {w : Nat} (v : BitVec w) : Nat := (List.range w).countP fun i => v.getLsbD i

/-- The result of an input as the first transaction after reset. -/
def firstAnswer (p : Input) : Option Result :=
  match step { State.reset with issued := [p] } with
  | .next t => t.resultPort
  | .fault _ => none
  | .refused _ => none

/-- The run's list of pairs is that of the block: it holds one result for each command taken, in the same order, and
each is the result the command has as the first transaction after reset (20_memory.md rule R45, 10_state.md rule R25,
70_reset_and_hazards.md rule R226). -/
abbrev State.Faithful (s : State) : Prop := s.results.map some = s.taken.map firstAnswer

/-- A state in a run whose caller issued `inputs`, in that order, from the start: what was taken and what is still issued
are together those inputs in that order, and the run is faithful (20_memory.md rule R45). The lists are the model's own
(log 1). -/
def State.IsRunOf (s : State) (inputs : List Input) : Prop := s.taken.reverse ++ s.issued = inputs ∧ s.Faithful

/-- The label of each codec on the label port (10_state.md rule R21). -/
def labOf : Codec → Lab
  | .alt => 0x001
  | .rate => 0x002
  | .angle => 0x003
  | .power => 0x004
  | .flag => 0x005

/-- `word[31:24]` of each codec (30_encoding.md rule R77). -/
def labelField : Codec → BitVec 8
  | .alt => 0x80
  | .rate => 0x40
  | .angle => 0xC0
  | .power => 0x20
  | .flag => 0xA0

/-- The unit that a label's value port counts (00_scope.md rule R9): feet, ft/min, degrees, points of the power scale,
and the flag itself. -/
def unitOf : Codec → ℚ
  | .alt => Config.altUnit
  | .rate => Config.l23Unit
  | .angle => Config.l23Unit
  | .power => Config.l4Unit
  | .flag => 1

/-- The physical quantity an integer on a label's value port stands for (00_scope.md rule R9). -/
def physical (c : Codec) (v : Int) : ℚ := v * unitOf c

/-- The operation that encodes a label's value (42_word_codec.md rule R170). -/
def encOp (c : Codec) (val : Option Int) (mode : ModeCode) : Instr :=
  match c with
  | .alt => .l1enc val mode
  | .rate => .l2enc val
  | .angle => .l3enc val
  | .power => .l4enc val
  | .flag => .l5enc val

/-- The operation that decodes a label's status and data (rule R172). -/
def decOp (c : Codec) (ssm : Status) (data : Data) : Instr :=
  match c with
  | .alt => .l1dec ssm data
  | .rate => .l2dec ssm data
  | .angle => .l3dec ssm data
  | .power => .l4dec ssm data
  | .flag => .l5dec ssm data

/-- The Bus Word row of a codec (30_encoding.md rule R77). -/
def rowOp (c : Codec) (sdi : Sdi) (data : Data) (ssm : Status) (p : Bool) : Instr :=
  match c with
  | .alt => .wordL1Alt sdi data ssm p
  | .rate => .wordL2Rate sdi data ssm p
  | .angle => .wordL3Angle sdi data ssm p
  | .power => .wordL4Power sdi data ssm p
  | .flag => .wordL5Flag sdi data ssm p

end Sys2Proof.Machine
end

