-- ==== Sys2Proof/Certificates/Slice0/Obligations.lean ====
section
/-!
DEFINITION. The statements about the model, from the numbered rules of spec/. `Answers i s r` says that instruction `i`
takes state `s` to the next state whose newest result record is `r`, everything else unchanged; a record field that a
statement does not give is 0 (30_encoding.md rule R75).
-/

open Sys2Proof Sys2Proof.Machine

/-! ### Encodings -/

/-- 30_encoding.md, the operation select and Bus Word tables: decoding the bits of a well-formed instruction gives it
back, all operands included. The order of the command fields in those bits is the model's choice (log 4). -/
def Obligations.DecodeEncodeRoundTrip : Prop :=
  ∀ i : Instr, i.wellFormed = true → decodeTableWord (encodeTableWord i).1 (encodeTableWord i).2 = some i

/-- 30_encoding.md section 1, assembly and extraction: they are inverse on the four fields and on `word[31:1]`, and each
places its bits as the formulas there write them. The placement of a reversed field in the word is the spec's decision
D28 (log 13). -/
def Obligations.AssemblyAndExtractionAreInverse : Prop :=
  (∀ f : WordFields, extractFields (assemble f) = f ∧ onesIn (assemble f) % 2 = 1 ∧
    (∀ i < 2, (assemble f).getLsbD (1 + i) = f.ssm.getLsbD (1 - i)) ∧
    (∀ i < 19, (assemble f).getLsbD (3 + i) = f.data.getLsbD (18 - i)) ∧
    (∀ i < 2, (assemble f).getLsbD (22 + i) = f.sdi.getLsbD (1 - i)) ∧
    (∀ i < 8, (assemble f).getLsbD (24 + i) = f.pack.getLsbD (7 - i))) ∧
  (∀ w : BusWord, (assemble (extractFields w)).extractLsb' 1 31 = w.extractLsb' 1 31 ∧ parityBit w = w.getLsbD 0 ∧
    (∀ i < 2, (extractFields w).ssm.getLsbD i = w.getLsbD (2 - i)) ∧
    (∀ i < 19, (extractFields w).data.getLsbD i = w.getLsbD (21 - i)) ∧
    (∀ i < 2, (extractFields w).sdi.getLsbD i = w.getLsbD (23 - i)) ∧
    (∀ i < 8, (extractFields w).pack.getLsbD i = w.getLsbD (31 - i)))

/-- 30_encoding.md section 5: a Bus Word that decodes to an instruction is the word that instruction encodes to, its
parity bit included, right or wrong. -/
def Obligations.DecodedBusWordReencodes : Prop :=
  ∀ (w : BusWord) (i : Instr), decode (.busWord w) = .ok i → encode i = .busWord w

/-- 30_encoding.md section 5: `word[31:24]` alone selects the row, by the five patterns, and every other value of it
selects none. That the decoder then rejects the word by name is the model's choice (log 6). The fields of the row are
the un-reversed fields of the word, placed by the spec's decision D28 (log 13). -/
def Obligations.LabelFieldSelectsTheRow : Prop :=
  ∀ w : BusWord,
    (∀ c : Codec, w.extractLsb' 24 8 = labelField c →
      ∃ sdi data ssm, decode (.busWord w) = .ok (rowOp c sdi data ssm (w.getLsbD 0)) ∧
        (∀ i < 2, sdi.getLsbD i = w.getLsbD (23 - i)) ∧ (∀ i < 19, data.getLsbD i = w.getLsbD (21 - i)) ∧
        (∀ i < 2, ssm.getLsbD i = w.getLsbD (2 - i))) ∧
    ((∀ c : Codec, w.extractLsb' 24 8 ≠ labelField c) →
      decode (.busWord w) = .error (.noCodec (w.extractLsb' 24 8)))

/-- 00_scope.md section 4: whatever the decoder accepts is well-formed, its physical value one that fits the 32-bit
signed value port (the check is the model's, log 7). -/
def Obligations.DecodedInstructionIsWellFormed : Prop :=
  ∀ (p : Input) (i : Instr), decode p = .ok i → i.wellFormed = true

/-- Sanity: words written out from the tables of 30_encoding.md decode to the instructions they stand for (the bits of a
command above `op` in the order of log 4). -/
def Obligations.WrittenWordsDecode : Prop :=
  decodeTableWord 8 0x1 = some (.pgen 0) ∧ decodeTableWord 8 0xF = some .errw ∧
  decodeTableWord 112 (0x6 + 3 * 2 ^ 85 + 0x04000 * 2 ^ 87) = some (.l2dec 3 0x04000) ∧
  decodeTableWord 112 (0xD + 0x002 * 2 ^ 4 + 1 * 2 ^ 16 + 2 ^ 18 + 0xFFFFF060 * 2 ^ 19) =
    some (.wenc 0x002 1 (some (-4000)) 0) ∧
  decodeTableWord 32 0x80200046 = some (.wordL1Alt 0 0x08001 3 false) ∧
  decodeTableWord 32 0x60000001 = none

/-- 30_encoding.md section 4, the operation select table with the fields each operation reads: which instruction the
decoder gives for every command, all sixteen codes of `op` and all four of `wsel`. The numbers are the spec's decisions
D2, D3 and D22 (log 14); an absent or present value is the model's `Option` (log 7). -/
def Obligations.OperationSelectChoosesTheInstruction : Prop :=
  ∀ c : Command, ∃ v : Option Int, (c.pres = false → v = none) ∧ (c.pres = true → v = some c.val.toInt) ∧
    (c.op = 0x0 → c.wsel = 0 → decode (.command c) = .ok (.rev .w2 c.data)) ∧
    (c.op = 0x0 → c.wsel = 1 → decode (.command c) = .ok (.rev .w8 c.data)) ∧
    (c.op = 0x0 → c.wsel = 2 → decode (.command c) = .ok (.rev .w19 c.data)) ∧
    (c.op = 0x0 → c.wsel = 3 → decode (.command c) = .ok (.rev .reserved c.data)) ∧
    (c.op = 0x1 → decode (.command c) = .ok (.pgen c.word)) ∧
    (c.op = 0x2 → decode (.command c) = .ok (.pchk c.word)) ∧
    (c.op = 0x3 → decode (.command c) = .ok (.l1enc v c.mode)) ∧
    (c.op = 0x4 → decode (.command c) = .ok (.l1dec c.ssm c.data)) ∧
    (c.op = 0x5 → decode (.command c) = .ok (.l2enc v)) ∧
    (c.op = 0x6 → decode (.command c) = .ok (.l2dec c.ssm c.data)) ∧
    (c.op = 0x7 → decode (.command c) = .ok (.l3enc v)) ∧
    (c.op = 0x8 → decode (.command c) = .ok (.l3dec c.ssm c.data)) ∧
    (c.op = 0x9 → decode (.command c) = .ok (.l4enc v)) ∧
    (c.op = 0xA → decode (.command c) = .ok (.l4dec c.ssm c.data)) ∧
    (c.op = 0xB → decode (.command c) = .ok (.l5enc v)) ∧
    (c.op = 0xC → decode (.command c) = .ok (.l5dec c.ssm c.data)) ∧
    (c.op = 0xD → decode (.command c) = .ok (.wenc c.lab c.sdi v c.mode)) ∧
    (c.op = 0xE → decode (.command c) = .ok (.wdec c.word)) ∧
    (c.op = 0xF → decode (.command c) = .ok .errw)

/-! ### The step -/

/-- 20_memory.md section 3: the oldest input the caller has issued is taken, and when it decodes to an instruction the
step is that instruction's meaning. The lists are the model's own (log 1). -/
def Obligations.StepRunsTheDecodedInstruction : Prop :=
  ∀ (s : State) (p : Input) (rest : List Input) (i : Instr), s.issued = p :: rest → decode p = .ok i →
    step s = exec i { s with issued := rest, taken := p :: s.taken }

/-- With nothing issued a step changes nothing: the model's choice (log 3), 70_reset_and_hazards.md rule R226 having no
halt and no final state. -/
def Obligations.StepWithNothingIssuedStays : Prop := ∀ s : State, s.issued = [] → step s = .next s

/-- A bare Bus Word is answered as WDEC answers it, for every word, whether or not its label selects a row: the model's
reading of 30_encoding.md section 5 (logs 5 and 6). -/
def Obligations.BareBusWordIsAnsweredAsWdec : Prop :=
  ∀ (s : State) (w : BusWord) (c : Command) (rest : List Input), c.op = 0xE → c.word = w →
    ∃ r, Answers (.wdec w) s r ∧
      step { s with issued := .busWord w :: rest } =
        .next { issued := rest, taken := .busWord w :: s.taken, results := r :: s.results } ∧
      step { s with issued := .command c :: rest } =
        .next { issued := rest, taken := .command c :: s.taken, results := r :: s.results }

/-- 60_exceptions.md section 1 (the spec's decision D27): no operation traps, aborts, hangs or fails to return a result.
Every step on an issued input records exactly one result for it. Two cases are the model's choices: a step with nothing
issued answers a next state too (log 3), and a bare Bus Word without a codec is answered like any other input (log 6). -/
def Obligations.EveryStepAnswersANextState : Prop :=
  (∀ s : State, ∃ t, step s = .next t) ∧
  (∀ (s : State) (p : Input) (rest : List Input), s.issued = p :: rest →
    ∃ r, step s = .next { issued := rest, taken := p :: s.taken, results := r :: s.results })

/-- 20_memory.md section 3 (the spec's decision D23), 10_state.md section 1 and 70_reset_and_hazards.md section 3: a step
keeps the run faithful to what the caller issued, whatever that was. What is taken and what is still issued stay those
inputs in issue order, none reordered, merged or dropped, and each result is the one its command has as the first
transaction after reset. The lists are the model's own (log 1). -/
def Obligations.StepKeepsTheRunFaithful : Prop :=
  ∀ (s t : State) (inputs : List Input), s.IsRunOf inputs → step s = .next t → t.IsRunOf inputs

/-- 10_state.md section 2: after reset no transaction has been made, so the run's lists are empty (the model's own
fields, log 1) and it is a run of no inputs, faithful, and the result port has no value (log 2). -/
def Obligations.ResetHasNoTransactionAndNoResult : Prop :=
  State.reset.Faithful ∧ State.reset.IsRunOf [] ∧ State.reset.issued = [] ∧ State.reset.taken = [] ∧ State.reset.resultPort = none

/-- 20_memory.md section 3, order of transactions: running a state until nothing is issued takes the commands in issue
order and returns for each the result it has as the first transaction after reset. -/
def Obligations.RunAnswersInIssueOrder : Prop :=
  ∀ s : State, ∃ t : State, Sys2Proof.core.run s.issued.length s = .next t ∧ t.issued = [] ∧
    t.taken = s.issued.reverse ++ s.taken ∧
    ∃ rs : List Result, rs.map some = s.issued.map firstAnswer ∧ t.results = rs.reverse ++ s.results

/-- 10_state.md section 1: two transactions with equal commands give equal results, whatever was issued before them or
is issued after. -/
def Obligations.EqualCommandsGiveEqualResults : Prop :=
  ∀ (s s' : State) (p : Input) (rest rest' : List Input), s.issued = p :: rest → s'.issued = p :: rest' →
    ∃ r, step s = .next { issued := rest, taken := p :: s.taken, results := r :: s.results } ∧
      step s' = .next { issued := rest', taken := p :: s'.taken, results := r :: s'.results }

/-- 30_encoding.md section 4 with the spec's decision D32: a command field that the operation does not read has no
effect on the result. In particular `val` has none when `pres = 0`, and `mode` has none on WENC unless the label is 1. -/
def Obligations.UnreadFieldsHaveNoEffect : Prop :=
  ∀ c d : Command, c.op = d.op →
    (c.op = 0x0 → c.wsel = d.wsel ∧ c.data = d.data) →
    (c.op = 0x1 ∨ c.op = 0x2 ∨ c.op = 0xE → c.word = d.word) →
    (c.op = 0x4 ∨ c.op = 0x6 ∨ c.op = 0x8 ∨ c.op = 0xA ∨ c.op = 0xC → c.ssm = d.ssm ∧ c.data = d.data) →
    (c.op = 0x3 ∨ c.op = 0x5 ∨ c.op = 0x7 ∨ c.op = 0x9 ∨ c.op = 0xB ∨ c.op = 0xD →
      c.pres = d.pres ∧ (c.pres = true → c.val = d.val)) →
    (c.op = 0x3 → c.mode = d.mode) →
    (c.op = 0xD → c.lab = d.lab ∧ c.sdi = d.sdi ∧ (c.lab = 0x001 → c.mode = d.mode)) →
    ∃ r, firstAnswer (.command c) = some r ∧ firstAnswer (.command d) = some r

/-! ### BitField utilities -/

/-- Rule R100: `rev(x, w)` is the w-bit number whose bit i is bit `w − 1 − i` of x, for every width, also as a sum. -/
def Obligations.ReversalExchangesTheBits : Prop :=
  ∀ (w : Nat) (x : BitVec w),
    (∀ i < w, (rev x).getLsbD i = x.getLsbD (w - 1 - i)) ∧
    (rev x).toNat = ((List.range w).map fun i => (x.getLsbD (w - 1 - i)).toNat * 2 ^ i).sum

/-- 40_bitfield.md section 1, the laws of `rev`: involution, bijection, the count of ones kept, zero and all ones kept,
the table of width 2, and single bits. All but the first the spec derives from the definition of `rev`. -/
def Obligations.ReversalLaws : Prop :=
  (∀ (w : Nat) (x : BitVec w), rev (rev x) = x ∧ onesIn (rev x) = onesIn x) ∧
  (∀ w : Nat, Function.Bijective (rev (w := w)) ∧ rev (0 : BitVec w) = 0 ∧ rev (BitVec.allOnes w) = BitVec.allOnes w) ∧
  (∀ w j : Nat, j < w → rev (BitVec.twoPow w j) = BitVec.twoPow w (w - 1 - j)) ∧
  rev (0 : BitVec 2) = 0 ∧ rev (1 : BitVec 2) = 2 ∧ rev (2 : BitVec 2) = 1 ∧ rev (3 : BitVec 2) = 3

/-- 40_bitfield.md section 1, REV: the low w bits of the operand reversed, the bits at and above w ignored and the
result's bits there 0; the reserved width select is refused in-band. The ignored bits and the refusal are the spec's
decision D22 (log 14). -/
def Obligations.RevAnswersTheReversedField : Prop :=
  ∀ (s : State) (x : Data),
    (∀ (sel : RevSel) (w : Nat), (sel = .w2 ∧ w = 2) ∨ (sel = .w8 ∧ w = 8) ∨ (sel = .w19 ∧ w = 19) →
      ∃ y : Data, Answers (.rev sel x) s { data := y } ∧
        ∀ i < 19, y.getLsbD i = (decide (i < w) && x.getLsbD (w - 1 - i))) ∧
    Answers (.rev .reserved x) s { err := true }

/-- Rule R103: `par(word)` is 1 when the number of ones in `word[31:1]` is even and 0 when it is odd, does not depend on
`word[0]`, is the negation of the exclusive or of the 31 bits, and makes the whole word's count odd. -/
def Obligations.ParityBitMakesTheCountOdd : Prop :=
  ∀ w : BusWord,
    par w = decide (onesIn (w.extractLsb' 1 31) % 2 = 0) ∧
    par w = !((List.range 31).foldl (fun a i => a ^^ w.getLsbD (i + 1)) false) ∧
    (∀ v : BusWord, v.extractLsb' 1 31 = w.extractLsb' 1 31 → par v = par w) ∧
    onesIn (w.extractLsb' 1 31 ++ BitVec.ofBool (par w)) % 2 = 1

/-- 40_bitfield.md section 2, PGEN: `word[31:1]` unchanged, `word[0]` replaced, whatever it was (the spec's decision
D30), so that the count of ones is odd; a valid word comes back unchanged. -/
def Obligations.PgenSetsTheParityBit : Prop :=
  ∀ (s : State) (w : BusWord), ∃ v : BusWord, Answers (.pgen w) s { word := v } ∧
    (∀ i < 31, v.getLsbD (i + 1) = w.getLsbD (i + 1)) ∧
    v.getLsbD 0 = decide (((List.range 31).countP fun i => w.getLsbD (i + 1)) % 2 = 0) ∧
    onesIn v % 2 = 1 ∧ (onesIn w % 2 = 1 → v = w)

/-- Rule R105, PCHK: operation 0x2 reads `word` alone; `valid` is 1 exactly when the count of ones over all 32 bits is
odd, which is when `word[0]` is the parity of the rest; nothing else is looked at and `err` stays 0. -/
def Obligations.PchkCountsTheOnes : Prop :=
  ∀ (s : State) (w : BusWord), Answers (.pchk w) s { valid := decide (onesIn w % 2 = 1) } ∧
    (∀ c : Command, c.op = 0x2 → c.word = w → decode (.command c) = .ok (.pchk w)) ∧
    decide (onesIn w % 2 = 1) = (w.getLsbD 0 == par w) ∧
    Answers (.pchk 0) s { valid := false } ∧ Answers (.pchk 0xFFFFFFFF) s { valid := false } ∧
    Answers (.pchk 1) s { valid := true } ∧ Answers (.pchk 0x80200046) s { valid := true }

/-- 40_bitfield.md section 2, the laws of parity: PCHK passes every word of PGEN, every odd number of flipped bits of a
word changes its validity and every even number keeps it, so does no other, and PGEN is idempotent. -/
def Obligations.ParityLaws : Prop :=
  ∀ (s : State) (w : BusWord), ∃ v : BusWord, Answers (.pgen w) s { word := v } ∧
    Answers (.pchk v) s { valid := true } ∧ Answers (.pgen v) s { word := v } ∧
    (∀ b < 32, Answers (.pchk (v ^^^ BitVec.twoPow 32 b)) s { valid := false }) ∧
    (∀ m : BusWord, Answers (.pchk (v ^^^ m)) s { valid := decide (onesIn m % 2 = 0) })

/-! ### Label 1 -/

/-- 41_label_codecs.md section 1, the ladder: on 0 to 40000 ft the code the greedy procedure builds is the magnitude
divided by 625 units, at most 0x8000, and a larger magnitude never gives a smaller code. -/
def Obligations.LadderIsTruncatingDivision : Prop :=
  (∀ m : Nat, m ≤ 20480000 → (ladderEnc m).toNat = m / 625 ∧ (ladderEnc m).toNat ≤ 0x8000) ∧
  (∀ m n : Nat, m ≤ n → n ≤ 20480000 → (ladderEnc m).toNat ≤ (ladderEnc n).toNat)

/-- 41_label_codecs.md section 1, the ladder decoded: the magnitude of a ladder code is the sum of the steps of its set
bits, which is 625 · code; it is at most 40 959 375 and fits the signed value port without wrap. The unit 1/512 ft is
the spec's decision D11, and decoding as that sum is its inverse reading of the encoder (log 11). -/
def Obligations.LadderDecodesToTheSumOfSteps : Prop :=
  ∀ code : BitVec 16,
    ladderDec code = ((List.range 16).map fun k => (code.getLsbD (15 - k)).toNat * (625 * 2 ^ (15 - k))).sum ∧
    ladderDec code = 625 * code.toNat ∧ ladderDec code ≤ 40959375 ∧
    (valPort (ladderDec code)).toInt = ladderDec code ∧ (valPort (-(ladderDec code : Int))).toInt = -(ladderDec code : Int)

/-- 41_label_codecs.md section 1, the ladder in feet: step k is 40000 / 2^k ft, the largest magnitude 40000 ft, and a code
stands for code · 40000 / 2^15 ft. The unit 1/512 ft is the spec's decision D11 (log 11). -/
def Obligations.LadderStandsForFeet : Prop :=
  (∀ k < 16, (Config.stepU k : ℚ) * Config.altUnit = 40000 / 2 ^ k) ∧ (Config.altMaxU : ℚ) * Config.altUnit = 40000 ∧
  ∀ code : BitVec 16, (ladderDec code : ℚ) * Config.altUnit = code.toNat * 40000 / 2 ^ 15

/-- 41_label_codecs.md section 1, L1ENC: an unrecognized mode first, then absence, then the range, then sign, ladder code
and mode in `data`. The layout, the sign polarity and the treatment of mode 3 are the spec's decisions D9, D10, D11,
D12, D26 (log 11). -/
def Obligations.L1encPacksAltitudeAndMode : Prop :=
  ∀ (s : State) (mode : ModeCode),
    (∀ alt : Option Int, mode = 3 → Answers (.l1enc alt mode) s { ssm := 0, data := 0 }) ∧
    (mode ≠ 3 → Answers (.l1enc none mode) s { ssm := 1, data := BitVec.ofNat 19 mode.toNat }) ∧
    (∀ v : Int, mode ≠ 3 → 20480000 < v.natAbs → Answers (.l1enc (some v) mode) s { ssm := 0, data := 0 }) ∧
    (∀ v : Int, mode ≠ 3 → v.natAbs ≤ 20480000 → ∃ d : Data, Answers (.l1enc (some v) mode) s { ssm := 3, data := d } ∧
      d.toNat = (if v < 0 then 2 ^ 18 else 0) + 4 * (v.natAbs / 625) + mode.toNat)

/-- 41_label_codecs.md section 1, L1DEC: statuses 0 and 2 and an unrecognized mode give NONE, status 1 the mode only,
status 3 sign times 625 times the ladder code, without a range check. The reserved cases are the spec's decisions D12,
D13, D21 (log 11). -/
def Obligations.L1decUnpacksAltitudeAndMode : Prop :=
  ∀ (s : State) (ssm : Status) (data : Data),
    (ssm = 0 ∨ ssm = 2 → Answers (.l1dec ssm data) s { kind := .none }) ∧
    (ssm = 1 ∨ ssm = 3 → data.toNat % 4 = 3 → Answers (.l1dec ssm data) s { kind := .none }) ∧
    (ssm = 1 → data.toNat % 4 ≠ 3 →
      Answers (.l1dec ssm data) s { kind := .absent, mode := BitVec.ofNat 2 data.toNat }) ∧
    (ssm = 3 → data.toNat % 4 ≠ 3 → ∃ v : Val,
      Answers (.l1dec ssm data) s { kind := .present, val := v, mode := BitVec.ofNat 2 data.toNat } ∧
      v.toInt = (if 2 ^ 18 ≤ data.toNat then -1 else 1) * (625 * (data.toNat / 4 % 2 ^ 16)))

/-- 41_label_codecs.md section 1, the laws of label 1: encoding then decoding gives the mode back exactly and the
altitude truncated toward zero to a multiple of 625 units, exactly when it is one; an absent altitude comes back absent
with its mode; the sentinel of an altitude out of range comes back NONE. -/
def Obligations.AltitudeRoundTrip : Prop :=
  ∀ (s : State) (mode : ModeCode), mode ≠ 3 →
    (∀ v : Int, v.natAbs ≤ 20480000 → ∃ (d : Data) (u : Val), Answers (.l1enc (some v) mode) s { ssm := 3, data := d } ∧
      Answers (.l1dec 3 d) s { kind := .present, val := u, mode := mode } ∧
      u.toInt.natAbs = 625 * (v.natAbs / 625) ∧ (u.toInt = 0 ∨ (u.toInt < 0 ↔ v < 0)) ∧
      (u.toInt = v ↔ 625 ∣ v.natAbs)) ∧
    (∃ d : Data, Answers (.l1enc none mode) s { ssm := 1, data := d } ∧
      Answers (.l1dec 1 d) s { kind := .absent, mode := mode }) ∧
    (∀ v : Int, 20480000 < v.natAbs → ∃ (t : Status) (d : Data), Answers (.l1enc (some v) mode) s { ssm := t, data := d } ∧
      Answers (.l1dec t d) s { kind := .none })

/-! ### Labels 2 to 5 -/

/-- 41_label_codecs.md sections 3 and 4, L2ENC and L3ENC: absent and out-of-range values give the no-value sentinel, the
sign is the status, and the four decimal digits of the magnitude stand in the four lowest groups. The digit layout and
the out-of-range sentinel are the spec's decisions D14 and D16 (log 12). -/
def Obligations.L2encAndL3encPackFourDigits : Prop :=
  ∀ (s : State) (op : Option Int → Instr), op = .l2enc ∨ op = .l3enc →
    Answers (op none) s { ssm := 1, data := 0 } ∧
    (∀ v : Int, 9999 < v.natAbs → Answers (op (some v)) s { ssm := 1, data := 0 }) ∧
    (∀ v : Int, v.natAbs ≤ 9999 → ∃ d : Data, Answers (op (some v)) s { ssm := if v < 0 then 3 else 0, data := d } ∧
      d.toNat = v.natAbs % 10 + 16 * (v.natAbs / 10 % 10) + 256 * (v.natAbs / 100 % 10) + 4096 * (v.natAbs / 1000))

/-- 41_label_codecs.md sections 3 and 4, L2DEC and L3DEC: status 1 is absent, status 3 negative, statuses 0 and 2
positive; each of the four groups counts as the number it holds, and `data[18:16]` is ignored. The layout and the
ignored bits are the spec's decisions D14 and D17 (log 12). -/
def Obligations.L2decAndL3decUnpackFourGroups : Prop :=
  ∀ (s : State) (op : Status → Data → Instr) (ssm : Status) (data : Data), op = .l2dec ∨ op = .l3dec →
    (ssm = 1 → Answers (op ssm data) s { kind := .absent }) ∧
    (ssm ≠ 1 → ∃ v : Val, Answers (op ssm data) s { kind := .present, val := v } ∧
      v.toInt = (if ssm = 3 then -1 else 1) * (data.toNat % 16 + 10 * (data.toNat / 16 % 16) +
        100 * (data.toNat / 256 % 16) + 1000 * (data.toNat / 4096 % 16)))

/-- 41_label_codecs.md section 5, L4ENC: as labels 2 and 3 with five digit groups, the top one of 3 bits, up to 79999.
The layout and the sentinel are the spec's decisions D14 and D16 (log 12). -/
def Obligations.L4encPacksFiveDigits : Prop :=
  ∀ s : State,
    Answers (.l4enc none) s { ssm := 1, data := 0 } ∧
    (∀ v : Int, 79999 < v.natAbs → Answers (.l4enc (some v)) s { ssm := 1, data := 0 }) ∧
    (∀ v : Int, v.natAbs ≤ 79999 → ∃ d : Data, Answers (.l4enc (some v)) s { ssm := if v < 0 then 3 else 0, data := d } ∧
      d.toNat = v.natAbs % 10 + 16 * (v.natAbs / 10 % 10) + 256 * (v.natAbs / 100 % 10) +
        4096 * (v.natAbs / 1000 % 10) + 65536 * (v.natAbs / 10000))

/-- 41_label_codecs.md section 5, L4DEC: as labels 2 and 3 with the 3-bit top group counted in ten thousands (the spec's
decisions D14 and D17, log 12). -/
def Obligations.L4decUnpacksFiveGroups : Prop :=
  ∀ (s : State) (ssm : Status) (data : Data),
    (ssm = 1 → Answers (.l4dec ssm data) s { kind := .absent }) ∧
    (ssm ≠ 1 → ∃ v : Val, Answers (.l4dec ssm data) s { kind := .present, val := v } ∧
      v.toInt = (if ssm = 3 then -1 else 1) * (data.toNat % 16 + 10 * (data.toNat / 16 % 16) +
        100 * (data.toNat / 256 % 16) + 1000 * (data.toNat / 4096 % 16) + 10000 * (data.toNat / 65536)))

/-- 41_label_codecs.md section 6, L5ENC and L5DEC: the flag in `data[0]` at status 0, absent as (1, 0); on decode status
1 is absent and every nonzero data field is the flag 1. The whole codec is the spec's decision D8 (log 10). -/
def Obligations.L5PacksAndUnpacksTheFlag : Prop :=
  ∀ s : State,
    Answers (.l5enc none) s { ssm := 1, data := 0 } ∧ Answers (.l5enc (some 0)) s { ssm := 0, data := 0 } ∧
    (∀ v : Int, v ≠ 0 → Answers (.l5enc (some v)) s { ssm := 0, data := 1 }) ∧
    (∀ data : Data, Answers (.l5dec 1 data) s { kind := .absent }) ∧
    (∀ ssm : Status, ssm ≠ 1 → Answers (.l5dec ssm 0) s { kind := .present, val := 0 }) ∧
    (∀ (ssm : Status) (data : Data), ssm ≠ 1 → data ≠ 0 → Answers (.l5dec ssm data) s { kind := .present, val := 1 })

/-- 41_label_codecs.md section 2: unpacking packed digits gives the magnitude back on the encoder's range, and what
unpacking can give is bounded (layout: the spec's decision D14, log 12). -/
def Obligations.DigitGroupsAreInverse : Prop :=
  (∀ m : Nat, m ≤ 9999 → dunpack4 (dpack4 m) = m ∧ dunpack5 (dpack4 m) = m) ∧
  (∀ m : Nat, m ≤ 79999 → dunpack5 (dpack5 m) = m) ∧
  (∀ d : Data, dunpack4 d ≤ 16665 ∧ dunpack5 d ≤ 86665)

/-- 41_label_codecs.md section 7, the round trip of labels 2 to 5: an in-range value comes back exactly, an absent or
out-of-range one absent, a flag as 0 or 1. -/
def Obligations.LabelsTwoToFiveRoundTrip : Prop :=
  ∀ (s : State) (c : Codec) (mode : ModeCode), c ≠ .alt →
    (∃ (t : Status) (d : Data), Answers (encOp c none mode) s { ssm := t, data := d } ∧
      Answers (decOp c t d) s { kind := .absent }) ∧
    (∀ v : Int, ∃ (t : Status) (d : Data), Answers (encOp c (some v) mode) s { ssm := t, data := d } ∧
      (c = .flag → Answers (decOp c t d) s { kind := .present, val := if v = 0 then 0 else 1 }) ∧
      (c ≠ .flag → v.natAbs ≤ (if c = .power then 79999 else 9999) →
        ∃ u : Val, u.toInt = v ∧ Answers (decOp c t d) s { kind := .present, val := u }) ∧
      (c ≠ .flag → (if c = .power then 79999 else 9999) < v.natAbs → Answers (decOp c t d) s { kind := .absent }))

/-- 41_label_codecs.md sections 1 and 7, the round trip in physical units: an in-range altitude comes back within
40000 / 2^15 ft, and every other in-range quantity comes back exactly, in tenths of ft/min or of a degree and hundredths
of the power scale. The units are the spec's decisions D11 and D15, the layouts D9, D14 (logs 11, 12 and 15). -/
def Obligations.RoundTripWithinThePrecision : Prop :=
  (∀ k : Int, physical .alt k = k / 512 ∧ physical .rate k = k / 10 ∧ physical .angle k = k / 10 ∧
    physical .power k = k / 100) ∧
  ∀ (s : State) (c : Codec) (v : Int) (mode : ModeCode), c ≠ .flag → (c = .alt → mode ≠ 3) →
    v.natAbs ≤ (if c = .alt then 20480000 else if c = .power then 79999 else 9999) →
    ∃ (t : Status) (d : Data) (u : Val) (m : ModeCode), Answers (encOp c (some v) mode) s { ssm := t, data := d } ∧
      Answers (decOp c t d) s { kind := .present, val := u, mode := m } ∧
      (c = .alt → |physical c v - physical c u.toInt| < 40000 / 2 ^ 15) ∧
      (c ≠ .alt → physical c u.toInt = physical c v)

/-- Rule R155: each of the ten value codec operations is a total function of its operands alone: for every value of
them there is one result record, the same in every state, and it never refuses. -/
def Obligations.ValueCodecsArePureAndTotal : Prop :=
  (∀ (c : Codec) (val : Option Int) (mode : ModeCode), ∃ (t : Status) (d : Data), ∀ s : State,
    Answers (encOp c val mode) s { err := false, ssm := t, data := d }) ∧
  (∀ (c : Codec) (ssm : Status) (data : Data), ∃ (k : Kind) (v : Val) (m : ModeCode), ∀ s : State,
    Answers (decOp c ssm data) s { err := false, kind := k, val := v, mode := m })

/-- 41_label_codecs.md section 7, arithmetic widths: no value any instruction answers is outside ±40 959 375; and
30_encoding.md section 4: at kind NONE or ABSENT it is 0 (the spec's decisions D2 and D21, log 16). -/
def Obligations.EveryValueAnsweredIsInRange : Prop :=
  ∀ (i : Instr) (s : State), ∃ r : Result, Answers i s r ∧ -40959375 ≤ r.val.toInt ∧ r.val.toInt ≤ 40959375 ∧
    (r.kind ≠ .present → r.val = 0)

/-! ### The Word Codec -/

/-- 42_word_codec.md section 2, WENC on a registered label: the value codec's status and data, the sdi and the label in
the word, each field reversed, bit by bit, and an odd count of ones. The pack and the placement are the spec's decisions
D5 and D28 (log 13). -/
def Obligations.WencBuildsTheWord : Prop :=
  ∀ (s : State) (c : Codec) (sdi : Sdi) (val : Option Int) (mode : ModeCode),
    ∃ (t : Status) (d : Data) (w : BusWord), Answers (encOp c val mode) s { ssm := t, data := d } ∧
      Answers (.wenc (labOf c) sdi val mode) s { word := w } ∧
      w.extractLsb' 24 8 = labelField c ∧
      (∀ i < 2, w.getLsbD (1 + i) = t.getLsbD (1 - i)) ∧ (∀ i < 19, w.getLsbD (3 + i) = d.getLsbD (18 - i)) ∧
      (∀ i < 2, w.getLsbD (22 + i) = sdi.getLsbD (1 - i)) ∧ onesIn w % 2 = 1

/-- 42_word_codec.md section 2, WENC without a codec: every other value of the label port, digits out of range included,
is refused in-band with the error word, whatever the rest of the command holds. The rejection of out-of-range digits,
the registered set and the error word are the spec's decisions D6, D7, D18, D19 (logs 9 and 13). -/
def Obligations.WencWithoutCodecRefuses : Prop :=
  ∀ (s : State) (lab : Lab) (sdi : Sdi) (val : Option Int) (mode : ModeCode), (∀ c : Codec, lab ≠ labOf c) →
    Answers (.wenc lab sdi val mode) s { err := true, word := 0x00000004 }

/-- 42_word_codec.md, header and section 2: WENC is the composition of the unit operations, the value codec, four REVs,
the caller's shifts and PGEN. -/
def Obligations.WencIsTheUnitOperations : Prop :=
  ∀ (s : State) (c : Codec) (sdi : Sdi) (val : Option Int) (mode : ModeCode),
    ∃ (t : Status) (d rp rs rd rt : Data) (w : BusWord),
      Answers (encOp c val mode) s { ssm := t, data := d } ∧
      Answers (.rev .w8 (BitVec.ofNat 19 (labNumber (labOf c)))) s { data := rp } ∧
      Answers (.rev .w2 (sdi.setWidth 19)) s { data := rs } ∧
      Answers (.rev .w19 d) s { data := rd } ∧
      Answers (.rev .w2 (t.setWidth 19)) s { data := rt } ∧
      Answers (.pgen (rp.setWidth 32 <<< 24 ||| rs.setWidth 32 <<< 22 ||| rd.setWidth 32 <<< 3 ||| rt.setWidth 32 <<< 1))
        s { word := w } ∧
      Answers (.wenc (labOf c) sdi val mode) s { word := w }

/-- 42_word_codec.md section 3, WDEC: a word with an even count of ones gives the all-zero record; one with an odd count
and the label field of a codec gives `valid = 1`, the label, the un-reversed sdi and status, and what the codec decodes
from status and data. The all-zero record and the kinds are the spec's decisions D20 and D21 (log 16). -/
def Obligations.WdecTakesTheWordApart : Prop :=
  ∀ (s : State) (w : BusWord),
    (onesIn w % 2 = 0 → Answers (.wdec w) s { valid := false }) ∧
    (∀ c : Codec, onesIn w % 2 = 1 → w.extractLsb' 24 8 = labelField c →
      ∃ (sdi : Sdi) (data : Data) (ssm : Status) (q : Result),
        (∀ i < 2, sdi.getLsbD i = w.getLsbD (23 - i)) ∧ (∀ i < 19, data.getLsbD i = w.getLsbD (21 - i)) ∧
        (∀ i < 2, ssm.getLsbD i = w.getLsbD (2 - i)) ∧ Answers (decOp c ssm data) s q ∧
        Answers (.wdec w) s { valid := true, lab := labOf c, sdi := sdi, ssm := ssm,
                              kind := q.kind, val := q.val, mode := q.mode })

/-- 42_word_codec.md section 3, WDEC without a codec: a word that passes the parity check but whose label field un-reverses to a pack
other than 0x01 to 0x05 gives `valid = 0` with all other fields 0; that is 251 of the 256 packs, 0x00 among them, and
the error word; the reconstructed digits are always in range. The registered set, the pack and the all-zero record are
the spec's decisions D5, D7, D18 and D20 (logs 9, 13 and 16). -/
def Obligations.WdecWithoutCodecIsInvalid : Prop :=
  (∀ (s : State) (w : BusWord), onesIn w % 2 = 1 →
    ¬ (1 ≤ (rev (w.extractLsb' 24 8)).toNat ∧ (rev (w.extractLsb' 24 8)).toNat ≤ 5) →
    Answers (.wdec w) s { valid := false }) ∧
  ((List.range 256).countP fun n => decide (¬ (1 ≤ n ∧ n ≤ 5))) = 251 ∧
  (∀ s : State, Answers (.wdec 0x00000004) s { valid := false }) ∧
  (∀ w : BusWord, labH (labOfPack (extractFields w).pack) ≤ 3 ∧ labT (labOfPack (extractFields w).pack) ≤ 7 ∧
    labU (labOfPack (extractFields w).pack) ≤ 7)

/-- 42_word_codec.md section 3, the round trip of the whole codec: decoding the word WENC built returns `valid = 1`, the
label, the sdi, the status the value codec gave, and what the label's decoder makes of the value codec's status and
data, for every label with a codec and every value, mode and sdi. -/
def Obligations.WordRoundTrip : Prop :=
  ∀ (s : State) (c : Codec) (sdi : Sdi) (val : Option Int) (mode : ModeCode),
    ∃ (t : Status) (d : Data) (q : Result) (w : BusWord), Answers (encOp c val mode) s { ssm := t, data := d } ∧
      Answers (decOp c t d) s q ∧ Answers (.wenc (labOf c) sdi val mode) s { word := w } ∧
      Answers (.wdec w) s { valid := true, lab := labOf c, sdi := sdi, ssm := t,
                            kind := q.kind, val := q.val, mode := q.mode }

/-- 42_word_codec.md section 3, parity invariant: every word WENC or ERRW returns, the error word included, passes PCHK,
and flipping any one bit of it makes WDEC return the invalid record. -/
def Obligations.FlippedBitIsDetected : Prop :=
  ∀ (s : State) (i : Instr), i = .errw ∨ (∃ lab sdi val mode, i = .wenc lab sdi val mode) →
    ∃ (e : Bool) (w : BusWord), Answers i s { err := e, word := w } ∧ Answers (.pchk w) s { valid := true } ∧
      ∀ b < 32, Answers (.wdec (w ^^^ BitVec.twoPow 32 b)) s { valid := false }

/-- 42_word_codec.md section 3: on registered labels WENC is injective in label, sdi, status and data: equal words come
from equal labels, equal sdi and value codecs that gave the same status and data. -/
def Obligations.WencIsInjective : Prop :=
  ∀ (s : State) (c c' : Codec) (sdi sdi' : Sdi) (val val' : Option Int) (mode mode' : ModeCode) (w : BusWord),
    Answers (.wenc (labOf c) sdi val mode) s { word := w } → Answers (.wenc (labOf c') sdi' val' mode') s { word := w } →
    c = c' ∧ sdi = sdi' ∧ ∃ (t : Status) (d : Data), Answers (encOp c val mode) s { ssm := t, data := d } ∧
      Answers (encOp c' val' mode') s { ssm := t, data := d }

/-- 42_word_codec.md section 4, ERRW: the error word is 0x00000004, the assembly of label 000, sdi 0, data 0 and status
1; it passes the parity check and decodes to invalid. The number is the spec's decision D18 (log 9). -/
def Obligations.ErrwAnswersTheErrorWord : Prop :=
  ∀ s : State, Answers .errw s { word := 0x00000004 } ∧
    assemble { pack := 0, sdi := 0, data := 0, ssm := 1 } = 0x00000004 ∧
    Answers (.pchk 0x00000004) s { valid := true } ∧ Answers (.wdec 0x00000004) s { valid := false }

/-- 30_encoding.md section 1, SDI: it is carried unchanged from the WENC command to the word and from the word to the WDEC result, for
every value of it; it changes no other field of the word but the parity bit, and two words that differ in it (and in the
parity bit that goes with it) decode to records that differ in nothing else; the error word carries sdi 0. Its place in
the word is the spec's decision D28 (log 13). -/
def Obligations.SdiIsCarriedUnchanged : Prop :=
  (∀ (s : State) (c : Codec) (sdi : Sdi) (val : Option Int) (mode : ModeCode), ∃ w w0 : BusWord,
    Answers (.wenc (labOf c) sdi val mode) s { word := w } ∧ Answers (.wenc (labOf c) 0 val mode) s { word := w0 } ∧
    w.getLsbD 23 = sdi.getLsbD 0 ∧ w.getLsbD 22 = sdi.getLsbD 1 ∧
    (∀ i < 32, i ≠ 0 → i ≠ 22 → i ≠ 23 → w.getLsbD i = w0.getLsbD i) ∧
    ∃ r r0 : Result, Answers (.wdec w) s r ∧ Answers (.wdec w0) s r0 ∧ r.sdi = sdi ∧ r = { r0 with sdi := sdi }) ∧
  (∀ (s : State) (w w0 : BusWord), onesIn w % 2 = 1 → onesIn w0 % 2 = 1 →
    (∀ i < 32, i ≠ 0 → i ≠ 22 → i ≠ 23 → w.getLsbD i = w0.getLsbD i) →
    ∃ r r0 : Result, Answers (.wdec w) s r ∧ Answers (.wdec w0) s r0 ∧ r = { r0 with sdi := r.sdi } ∧
      ((∃ c : Codec, w.extractLsb' 24 8 = labelField c) →
        r.sdi.getLsbD 0 = w.getLsbD 23 ∧ r.sdi.getLsbD 1 = w.getLsbD 22)) ∧
  (∀ s : State, ∃ w : BusWord, Answers .errw s { word := w } ∧ w.getLsbD 22 = false ∧ w.getLsbD 23 = false)

/-- 60_exceptions.md section 2, refusals: the only ones are WENC's without a codec and REV's with the reserved width
select; every other operation returns `err = 0` for every command, and a refusal, like every result, has no effect
beyond its own record. It holds of all 21 rows of the opcode table. The two refusals are the spec's decisions D6, D7,
D19 and D22 (logs 13, 14 and 16). -/
def Obligations.OnlyWencAndRevRefuse : Prop :=
  ∀ (i : Instr) (s : State), ∃ r : Result, Answers i s r ∧
    (r.err = true ↔ (∃ x, i = .rev .reserved x) ∨ ∃ lab sdi val mode, i = .wenc lab sdi val mode ∧ codecOf lab = none)

/-- 60_exceptions.md section 2, invalid words: WDEC answers `valid = 0` for wrong parity and for a label field that
selects no codec, and for nothing else; PCHK for wrong parity only; PCHK valid with WDEC invalid means the label. -/
def Obligations.InvalidWordCauses : Prop :=
  ∀ (s : State) (w : BusWord), ∃ p r : Result, Answers (.pchk w) s p ∧ Answers (.wdec w) s r ∧
    (r.valid = false ↔ onesIn w % 2 = 0 ∨ ∀ c : Codec, w.extractLsb' 24 8 ≠ labelField c) ∧
    (p.valid = false ↔ onesIn w % 2 = 0) ∧ (r.valid = false → r = { valid := false }) ∧
    (p.valid = true ∧ r.valid = false → ∀ c : Codec, w.extractLsb' 24 8 ≠ labelField c)

/-- 60_exceptions.md section 2, sentinels are not errors: whatever the value and the mode, WENC of a registered label
answers `err = 0` and a word that WDEC finds valid; a label 1 word of status 0 or 2 or of mode 3 is a valid word of kind
NONE (the spec's decisions D12 and D21, log 11). -/
def Obligations.SentinelsAreNotErrors : Prop :=
  (∀ (s : State) (c : Codec) (sdi : Sdi) (val : Option Int) (mode : ModeCode), ∃ (w : BusWord) (r : Result),
    Answers (.wenc (labOf c) sdi val mode) s { err := false, word := w } ∧ Answers (.wdec w) s r ∧
    r.err = false ∧ r.valid = true) ∧
  (∀ (s : State) (sdi : Sdi) (data : Data) (ssm : Status), ssm = 0 ∨ ssm = 2 ∨ data.toNat % 4 = 3 →
    Answers (.wdec (assemble { pack := 1, sdi := sdi, data := data, ssm := ssm })) s
      { valid := true, lab := 0x001, sdi := sdi, ssm := ssm, kind := .none })

/-- 42_word_codec.md section 2, corner cases, and 95_test_vectors.md S3: every altitude beyond 40000 ft, and mode 3, give
with sdi 0 the sentinel word 0x80000000, which passes the parity check and decodes to a valid word of kind NONE (mode 3:
the spec's decision D12, log 11). -/
def Obligations.AltitudeSentinelWord : Prop :=
  ∀ (s : State) (alt : Option Int) (mode : ModeCode), mode = 3 ∨ (∃ v, alt = some v ∧ 20480000 < v.natAbs) →
    Answers (.wenc 0x001 0 alt mode) s { word := 0x80000000 } ∧ Answers (.pchk 0x80000000) s { valid := true } ∧
    Answers (.wdec 0x80000000) s { valid := true, lab := 0x001, kind := .none }

/-! ### The Bus Word rows -/

/-- 30_encoding.md section 5, the five Bus Word rows: when the ones of label field, sdi, data, status and parity bit are
odd in number, the row answers the valid record with its label, sdi, status and what its codec decodes; when they are
even in number, the invalid record. That a row is an instruction of its own is the model's choice (log 5). -/
def Obligations.BusWordRowsDecode : Prop :=
  ∀ (s : State) (c : Codec) (sdi : Sdi) (data : Data) (ssm : Status) (p : Bool), ∃ q : Result,
    Answers (decOp c ssm data) s q ∧
    Answers (rowOp c sdi data ssm p) s
      (if (onesIn (labelField c) + onesIn sdi + onesIn data + onesIn ssm + p.toNat) % 2 = 1 then
        { valid := true, lab := labOf c, sdi := sdi, ssm := ssm, kind := q.kind, val := q.val, mode := q.mode }
      else { valid := false })
end

