-- ==== Sys2Proof/Laws/Bits.lean ====
section
/-!
SUPPORT. The bits of a reversal and the count of ones, so that no later proof unfolds the two recursions.
-/

namespace Sys2Proof

/-- The reversal of the low `w` bits is below `2^w`. -/
theorem revBits_lt (w x : Nat) : revBits w x < 2 ^ w := by
  induction w generalizing x with
  | zero => simp [revBits]
  | succ w ih =>
    have h := ih (x / 2)
    have h2 : x % 2 ≤ 1 := by omega
    have h3 : x % 2 * 2 ^ w ≤ 1 * 2 ^ w := Nat.mul_le_mul_right _ h2
    rw [revBits, Nat.pow_succ]
    omega

/-- Bit `i` of the reversal of the low `w` bits of `x` is bit `w − 1 − i` of `x`. -/
theorem testBit_revBits (w x i : Nat) : (revBits w x).testBit i = (decide (i < w) && x.testBit (w - 1 - i)) := by
  induction w generalizing x i with
  | zero => simp [revBits]
  | succ w ih =>
    have hlt := revBits_lt w (x / 2)
    rw [revBits, Nat.mul_comm, Nat.testBit_two_pow_mul_add _ hlt]
    by_cases hi : i < w
    · have h1 : w + 1 - 1 - i = (w - 1 - i) + 1 := by omega
      rw [if_pos hi, ih, h1, Nat.testBit_succ]
      simp [hi, Nat.lt_succ_of_lt hi]
    · rw [if_neg hi]
      obtain rfl | h := Nat.eq_or_lt_of_le (Nat.le_of_not_lt hi)
      · simp
      · have h1 : ¬ i < w + 1 := by omega
        have h2 : i - w ≠ 0 := by omega
        obtain ⟨k, hk⟩ := Nat.exists_eq_succ_of_ne_zero h2
        simp [h1, hk, Nat.testBit_succ]

/-- The number a reversal denotes. -/
@[simp] theorem toNat_rev {w : Nat} (x : BitVec w) : (rev x).toNat = revBits w x.toNat := by
  simp [rev, Nat.mod_eq_of_lt (revBits_lt w x.toNat)]

/-- The bits of a reversal. -/
theorem getLsbD_rev {w : Nat} (x : BitVec w) (i : Nat) :
    (rev x).getLsbD i = (decide (i < w) && x.getLsbD (w - 1 - i)) := by
  rw [← BitVec.testBit_toNat, toNat_rev, testBit_revBits, BitVec.testBit_toNat]

/-- The bits of a reversal, below its width. -/
@[simp] theorem getElem_rev {w : Nat} (x : BitVec w) (i : Nat) (h : i < w) :
    (rev x)[i] = x[w - 1 - i]'(by omega) := by
  have h2 : w - 1 - i < w := by omega
  rw [← BitVec.getLsbD_eq_getElem h, ← BitVec.getLsbD_eq_getElem h2, getLsbD_rev]
  simp [h]

/-- The recursion of the population count counts the bits that are set. -/
theorem onesBelow_eq_countP (w x : Nat) : onesBelow w x = (List.range w).countP fun i => x.testBit i := by
  induction w generalizing x with
  | zero => simp [onesBelow]
  | succ w ih =>
    rw [onesBelow, ih, List.range_succ_eq_map, List.countP_cons, List.countP_map]
    have h : (fun i => (x / 2).testBit i) = (fun i => x.testBit i) ∘ Nat.succ := by
      funext i; simp [Nat.testBit_succ]
    rw [h]
    have h2 : x % 2 = if x.testBit 0 then 1 else 0 := by
      rw [Nat.testBit_zero]
      rcases Nat.mod_two_eq_zero_or_one x with h | h <;> simp [h]
    omega

/-- `popcount` is the number of 1 bits, counted one by one. -/
theorem popcount_eq_onesIn {w : Nat} (v : BitVec w) : popcount v = Machine.onesIn v := by
  rw [popcount, onesBelow_eq_countP, Machine.onesIn]
  exact List.countP_congr fun i _ => by rw [BitVec.testBit_toNat]

/-- The bits of a word of rule R77's patterns, field by field from bit 0 up. -/
theorem getLsbD_patternWord (field : BitVec 8) (sdi : Sdi) (data : Data) (ssm : Status) (p : Bool) (i : Nat) :
    (patternWord field sdi data ssm p).getLsbD i =
      if i < 1 then p
      else if i < 3 then (rev ssm).getLsbD (i - 1)
      else if i < 22 then (rev data).getLsbD (i - 3)
      else if i < 24 then (rev sdi).getLsbD (i - 22)
      else field.getLsbD (i - 24) := by
  have h1 : (i - 1 < 2) = (i < 3) := by simp only [eq_iff_iff]; omega
  have h2 : (i - 3 < 19) = (i < 22) := by simp only [eq_iff_iff]; omega
  have h3 : (i - 22 < 2) = (i < 24) := by simp only [eq_iff_iff]; omega
  change BitVec.getLsbD (w := 8 + 2 + 19 + 2 + 1) _ _ = _
  simp only [patternWord, BitVec.getLsbD_append]
  simp only [Config.ssmW, Config.dataW, Config.sdiW, Nat.sub_sub, Nat.reduceAdd, h1, h2, h3]
  by_cases hi : i < 1
  · simp [Nat.lt_one_iff.mp hi]
  · simp only [hi, if_false]

/-- The bits of a word without its parity field. -/
theorem getLsbD_bodyOf (w : BusWord) (i : Nat) : (bodyOf w).getLsbD i = (decide (i < 31) && w.getLsbD (i + 1)) := by
  rw [bodyOf, BitVec.getLsbD_extractLsb', Nat.add_comm]
  rfl

/-- The bits of a word whose parity bit is set: bit 0 is the parity, every other bit stays. -/
theorem getLsbD_withPar (w : BusWord) (i : Nat) :
    (withPar w).getLsbD i = if i = 0 then par w else w.getLsbD i := by
  change BitVec.getLsbD (w := 31 + 1) _ _ = _
  rw [withPar, BitVec.getLsbD_append, getLsbD_bodyOf]
  rcases i with _ | i
  · simp
  · rcases Nat.lt_or_ge i 31 with h | h
    · simp [h]
    · simp [BitVec.getLsbD_of_ge w (i + 1) (by simp only [Config.wordW]; omega), Nat.not_lt.mpr h]

end Sys2Proof
end

