-- ==== Sys2Proof/Laws/Codecs.lean ====
section
/-!
SUPPORT. What each shared function of the codecs returns, case by case, so that no later proof unfolds it.
-/

namespace Sys2Proof.Machine

section Decimal

variable {maxU : Nat} {digits : Nat → Data} {number : Data → Nat} {v : Int} {ssm : Status} {data : Data}

@[simp] theorem decimalEnc_absent : decimalEnc maxU digits none = { ssm := 1, data := 0 } := rfl

theorem decimalEnc_outOfRange (h : maxU < v.natAbs) : decimalEnc maxU digits (some v) = { ssm := 1, data := 0 } := by
  simp [decimalEnc, magnitude, h]

theorem decimalEnc_inRange (h : v.natAbs ≤ maxU) :
    decimalEnc maxU digits (some v) = { ssm := if v < 0 then 3 else 0, data := digits v.natAbs } := by
  simp [decimalEnc, magnitude, Nat.not_lt.mpr h]

@[simp] theorem decimalDec_absent : decimalDec number 1 data = { kind := .absent } := rfl

theorem decimalDec_negative : decimalDec number 3 data = { kind := .present, val := valPort (-(number data : Int)) } :=
  rfl

theorem decimalDec_positive (h : ssm = 0 ∨ ssm = 2) :
    decimalDec number ssm data = { kind := .present, val := valPort (number data : Int) } := by
  obtain rfl | rfl := h <;> rfl

end Decimal

section Digits

/-- `n` digit groups fill `4n` bits at most. -/
theorem packDigits_lt (n m : Nat) : packDigits n m < 16 ^ n := by
  induction n generalizing m with
  | zero => simp [packDigits]
  | succ n ih =>
    have h := ih (m / 10)
    rw [packDigits, Nat.pow_succ]
    omega

/-- Below `10^n`, the `n` groups hold all of the magnitude. -/
theorem unpackDigits_packDigits (n m : Nat) (h : m < 10 ^ n) : unpackDigits n (packDigits n m) = m := by
  induction n generalizing m with
  | zero => simp_all [unpackDigits]
  | succ n ih =>
    have h1 : (m % 10 + 16 * packDigits n (m / 10)) / 16 = packDigits n (m / 10) := by omega
    have h2 : (m % 10 + 16 * packDigits n (m / 10)) % 16 = m % 10 := by omega
    rw [packDigits, unpackDigits, h1, h2, ih (m / 10) (by rw [Nat.pow_succ] at h; omega)]
    omega

end Digits

section Words

variable {word : BusWord} {lab : Lab} {sdi : Sdi} {ssm : Status} {payload : Payload}

theorem receivedResult_valid (h : wordValid word = true) :
    receivedResult word lab sdi ssm payload = deliveredResult lab sdi ssm payload := by
  simp [receivedResult, h]

theorem receivedResult_invalid (h : wordValid word = false) : receivedResult word lab sdi ssm payload = invalidResult := by
  simp [receivedResult, h]

theorem wdecResult_badParity (h : wordValid word = false) : wdecResult word = invalidResult := by
  simp [wdecResult, h]

theorem wdecResult_noCodec (h : codecOf (labOfPack (extractFields word).pack) = none) :
    wdecResult word = invalidResult := by
  simp [wdecResult, h]

theorem wdecResult_codec {c : Codec} (hv : wordValid word = true)
    (hc : codecOf (labOfPack (extractFields word).pack) = some c) :
    wdecResult word = deliveredResult (labOfPack (extractFields word).pack) (extractFields word).sdi
      (extractFields word).ssm (decodeBy c (extractFields word).ssm (extractFields word).data) := by
  simp [wdecResult, hv, hc]

theorem wencResult_noCodec {val : Option Int} {mode : ModeCode} (h : codecOf lab = none) :
    wencResult lab sdi val mode = noCodecRefusal := by
  simp [wencResult, h]

theorem wencResult_codec {c : Codec} {val : Option Int} {mode : ModeCode} (h : codecOf lab = some c) :
    wencResult lab sdi val mode =
      { word := assemble { pack := packOfLab lab, sdi := sdi, data := (encodeBy c val mode).data,
                           ssm := (encodeBy c val mode).ssm } } := by
  simp [wencResult, h]

end Words

end Sys2Proof.Machine
end

