-- ==== Sys2Proof/Laws/Exec.lean ====
section
/-!
SUPPORT. What each arm of `exec` answers, in one line, so that no later proof unfolds the dispatch.
-/

namespace Sys2Proof.Machine

variable (s : State)

@[simp] theorem exec_rev (wsel : RevSel) (x : Data) : exec (.rev wsel x) s = complete (revResult wsel x) s := rfl

@[simp] theorem exec_pgen (w : BusWord) : exec (.pgen w) s = complete { word := withPar w } s := rfl

@[simp] theorem exec_pchk (w : BusWord) : exec (.pchk w) s = complete { valid := wordValid w } s := rfl

@[simp] theorem exec_l1enc (alt : Option Int) (mode : ModeCode) :
    exec (.l1enc alt mode) s = complete (encodedResult (l1enc alt mode)) s := rfl

@[simp] theorem exec_l1dec (ssm : Status) (data : Data) :
    exec (.l1dec ssm data) s = complete (payloadResult (l1dec ssm data)) s := rfl

@[simp] theorem exec_l2enc (val : Option Int) :
    exec (.l2enc val) s = complete (encodedResult (l2enc val)) s := rfl

@[simp] theorem exec_l2dec (ssm : Status) (data : Data) :
    exec (.l2dec ssm data) s = complete (payloadResult (l2dec ssm data)) s := rfl

@[simp] theorem exec_l3enc (val : Option Int) :
    exec (.l3enc val) s = complete (encodedResult (l3enc val)) s := rfl

@[simp] theorem exec_l3dec (ssm : Status) (data : Data) :
    exec (.l3dec ssm data) s = complete (payloadResult (l3dec ssm data)) s := rfl

@[simp] theorem exec_l4enc (val : Option Int) :
    exec (.l4enc val) s = complete (encodedResult (l4enc val)) s := rfl

@[simp] theorem exec_l4dec (ssm : Status) (data : Data) :
    exec (.l4dec ssm data) s = complete (payloadResult (l4dec ssm data)) s := rfl

@[simp] theorem exec_l5enc (val : Option Int) :
    exec (.l5enc val) s = complete (encodedResult (l5enc val)) s := rfl

@[simp] theorem exec_l5dec (ssm : Status) (data : Data) :
    exec (.l5dec ssm data) s = complete (payloadResult (l5dec ssm data)) s := rfl

@[simp] theorem exec_wenc (lab : Lab) (sdi : Sdi) (val : Option Int) (mode : ModeCode) :
    exec (.wenc lab sdi val mode) s = complete (wencResult lab sdi val mode) s := rfl

@[simp] theorem exec_wdec (w : BusWord) : exec (.wdec w) s = complete (wdecResult w) s := rfl

@[simp] theorem exec_errw : exec .errw s = complete { word := Config.errorWord } s := rfl

variable (sdi : Sdi) (data : Data) (ssm : Status) (p : Bool)

@[simp] theorem exec_wordL1Alt : exec (.wordL1Alt sdi data ssm p) s =
    complete (receivedResult (patternWord 0x80 sdi data ssm p) 0x001 sdi ssm (l1dec ssm data)) s := rfl

@[simp] theorem exec_wordL2Rate : exec (.wordL2Rate sdi data ssm p) s =
    complete (receivedResult (patternWord 0x40 sdi data ssm p) 0x002 sdi ssm (l2dec ssm data)) s := rfl

@[simp] theorem exec_wordL3Angle : exec (.wordL3Angle sdi data ssm p) s =
    complete (receivedResult (patternWord 0xC0 sdi data ssm p) 0x003 sdi ssm (l3dec ssm data)) s := rfl

@[simp] theorem exec_wordL4Power : exec (.wordL4Power sdi data ssm p) s =
    complete (receivedResult (patternWord 0x20 sdi data ssm p) 0x004 sdi ssm (l4dec ssm data)) s := rfl

@[simp] theorem exec_wordL5Flag : exec (.wordL5Flag sdi data ssm p) s =
    complete (receivedResult (patternWord 0xA0 sdi data ssm p) 0x005 sdi ssm (l5dec ssm data)) s := rfl

end Sys2Proof.Machine
end

