-- ==== Sys2Proof/Laws/PerInstr.lean ====
section
/-!
SUPPORT. Families of statements made of each instruction, as syntax, one lemma per constructor.
-/

namespace Sys2Proof.Laws

/-- The format in which an instruction is presented and the code that selects it there: the operation select of
30_encoding.md rule R76, or the label field of rule R77. -/
def selector : Instr → Nat × Nat
  | .rev _ _ => (4, 0x0)
  | .pgen _ => (4, 0x1)
  | .pchk _ => (4, 0x2)
  | .l1enc _ _ => (4, 0x3)
  | .l1dec _ _ => (4, 0x4)
  | .l2enc _ => (4, 0x5)
  | .l2dec _ _ => (4, 0x6)
  | .l3enc _ => (4, 0x7)
  | .l3dec _ _ => (4, 0x8)
  | .l4enc _ => (4, 0x9)
  | .l4dec _ _ => (4, 0xA)
  | .l5enc _ => (4, 0xB)
  | .l5dec _ _ => (4, 0xC)
  | .wenc _ _ _ _ => (4, 0xD)
  | .wdec _ => (4, 0xE)
  | .errw => (4, 0xF)
  | .wordL1Alt _ _ _ _ => (8, 0x80)
  | .wordL2Rate _ _ _ _ => (8, 0x40)
  | .wordL3Angle _ _ _ _ => (8, 0xC0)
  | .wordL4Power _ _ _ _ => (8, 0x20)
  | .wordL5Flag _ _ _ _ => (8, 0xA0)

/-- The width and the value of the code that selects an input's operation. -/
def selectorOf : Input → Nat × Nat
  | .command c => (4, c.op.toNat)
  | .busWord w => (8, (w.extractLsb' 24 8).toNat)

/-- The encoder selects an instruction by the code the spec's tables give it. -/
def EncodedSelector.Statement (i : Instr) : Prop := selectorOf (encode i) = selector i

/-- The label field of a pattern stands in `word[31:24]`. -/
theorem patternWord_labelField (field : BitVec 8) (sdi : Sdi) (data : Data) (ssm : Status) (p : Bool) :
    (patternWord field sdi data ssm p).extractLsb' 24 8 = field := by
  ext i hi
  have h : 24 + i - 24 = i := by omega
  rw [BitVec.getElem_extractLsb', getLsbD_patternWord, if_neg (by omega), if_neg (by omega), if_neg (by omega),
    if_neg (by omega), h, BitVec.getLsbD_eq_getElem]

theorem EncodedSelector.rev (wsel : RevSel) (x : Data) :
    EncodedSelector.Statement (.rev wsel x) := rfl

theorem EncodedSelector.pgen (word : BusWord) :
    EncodedSelector.Statement (.pgen word) := rfl

theorem EncodedSelector.pchk (word : BusWord) :
    EncodedSelector.Statement (.pchk word) := rfl

theorem EncodedSelector.l1enc (alt : Option Int) (mode : ModeCode) :
    EncodedSelector.Statement (.l1enc alt mode) := by
  cases alt <;> rfl

theorem EncodedSelector.l1dec (ssm : Status) (data : Data) :
    EncodedSelector.Statement (.l1dec ssm data) := rfl

theorem EncodedSelector.l2enc (val : Option Int) :
    EncodedSelector.Statement (.l2enc val) := by
  cases val <;> rfl

theorem EncodedSelector.l2dec (ssm : Status) (data : Data) :
    EncodedSelector.Statement (.l2dec ssm data) := rfl

theorem EncodedSelector.l3enc (val : Option Int) :
    EncodedSelector.Statement (.l3enc val) := by
  cases val <;> rfl

theorem EncodedSelector.l3dec (ssm : Status) (data : Data) :
    EncodedSelector.Statement (.l3dec ssm data) := rfl

theorem EncodedSelector.l4enc (val : Option Int) :
    EncodedSelector.Statement (.l4enc val) := by
  cases val <;> rfl

theorem EncodedSelector.l4dec (ssm : Status) (data : Data) :
    EncodedSelector.Statement (.l4dec ssm data) := rfl

theorem EncodedSelector.l5enc (val : Option Int) :
    EncodedSelector.Statement (.l5enc val) := by
  cases val <;> rfl

theorem EncodedSelector.l5dec (ssm : Status) (data : Data) :
    EncodedSelector.Statement (.l5dec ssm data) := rfl

theorem EncodedSelector.wenc (lab : Lab) (sdi : Sdi) (val : Option Int) (mode : ModeCode) :
    EncodedSelector.Statement (.wenc lab sdi val mode) := by
  cases val <;> rfl

theorem EncodedSelector.wdec (word : BusWord) :
    EncodedSelector.Statement (.wdec word) := rfl

theorem EncodedSelector.errw :
    EncodedSelector.Statement .errw := rfl

theorem EncodedSelector.wordL1Alt (sdi : Sdi) (data : Data) (ssm : Status) (p : Bool) :
    EncodedSelector.Statement (.wordL1Alt sdi data ssm p) := by
  simp [EncodedSelector.Statement, selectorOf, encode, selector, patternWord_labelField]

theorem EncodedSelector.wordL2Rate (sdi : Sdi) (data : Data) (ssm : Status) (p : Bool) :
    EncodedSelector.Statement (.wordL2Rate sdi data ssm p) := by
  simp [EncodedSelector.Statement, selectorOf, encode, selector, patternWord_labelField]

theorem EncodedSelector.wordL3Angle (sdi : Sdi) (data : Data) (ssm : Status) (p : Bool) :
    EncodedSelector.Statement (.wordL3Angle sdi data ssm p) := by
  simp [EncodedSelector.Statement, selectorOf, encode, selector, patternWord_labelField]

theorem EncodedSelector.wordL4Power (sdi : Sdi) (data : Data) (ssm : Status) (p : Bool) :
    EncodedSelector.Statement (.wordL4Power sdi data ssm p) := by
  simp [EncodedSelector.Statement, selectorOf, encode, selector, patternWord_labelField]

theorem EncodedSelector.wordL5Flag (sdi : Sdi) (data : Data) (ssm : Status) (p : Bool) :
    EncodedSelector.Statement (.wordL5Flag sdi data ssm p) := by
  simp [EncodedSelector.Statement, selectorOf, encode, selector, patternWord_labelField]

end Sys2Proof.Laws
end

