-- ==== Sys2Proof/Laws/State.lean ====
section
/-!
SUPPORT. One lemma per field per operation on the state, and what each shared operation can do.
-/

namespace Sys2Proof.Machine

variable (s t : State) (p : Input) (rest : List Input) (r : Result)

@[simp] theorem reset_issued : State.reset.issued = [] := rfl
@[simp] theorem reset_taken : State.reset.taken = [] := rfl
@[simp] theorem reset_results : State.reset.results = [] := rfl
@[simp] theorem reset_resultPort : State.reset.resultPort = none := rfl

@[simp] theorem present_issued : (s.present p).issued = p :: s.issued := rfl
@[simp] theorem present_taken : (s.present p).taken = s.taken := rfl
@[simp] theorem present_results : (s.present p).results = s.results := rfl

@[simp] theorem take_issued : (s.take p rest).issued = rest := rfl
@[simp] theorem take_taken : (s.take p rest).taken = p :: s.taken := rfl
@[simp] theorem take_results : (s.take p rest).results = s.results := rfl

@[simp] theorem answer_issued : (s.answer r).issued = s.issued := rfl
@[simp] theorem answer_taken : (s.answer r).taken = s.taken := rfl
@[simp] theorem answer_results : (s.answer r).results = r :: s.results := rfl
@[simp] theorem answer_resultPort : (s.answer r).resultPort = some r := rfl

/-- Completing a transaction records its result, and that is all it does. -/
@[simp] theorem complete_eq_next : complete r s = .next t ↔ t = s.answer r := by
  simp [complete, eq_comm]

/-- An input that is no row of the table is answered, whatever the rejection, by the invalid record. -/
@[simp] theorem answerRejected_eq (e : DecodeError) : answerRejected e s = complete invalidResult s := by
  cases e; rfl

/-- With nothing issued the state stays. -/
@[simp] theorem idle_eq_next : idle s = .next t ↔ t = s := by
  simp [idle, eq_comm]

end Sys2Proof.Machine
end

