-- ==== Sys2Proof/Laws/Widths.lean ====
section
/-!
SUPPORT. The functions whose types or places come from the widths of Config.lean, written with the numbers, and the
bounds the widths give; a proof rewrites with these and then sees numerals only.
-/

namespace Sys2Proof

/-! ### Bounds -/

theorem BusWord.toNat_lt (w : BusWord) : w.toNat < 4294967296 := w.isLt
theorem Data.toNat_lt (d : Data) : d.toNat < 524288 := d.isLt
theorem Status.toNat_lt (t : Status) : t.toNat < 4 := t.isLt
theorem Sdi.toNat_lt (x : Sdi) : x.toNat < 4 := x.isLt
theorem Pack.toNat_lt (p : Pack) : p.toNat < 256 := p.isLt
theorem Lab.toNat_lt (l : Lab) : l.toNat < 4096 := l.isLt
theorem ModeCode.toNat_lt (m : ModeCode) : m.toNat < 4 := m.isLt
theorem Op.toNat_lt (o : Op) : o.toNat < 16 := o.isLt
theorem Val.toInt_le (v : Val) : v.toInt ≤ 2147483647 := Int.le_of_lt_add_one (BitVec.toInt_lt (x := v))
theorem Val.le_toInt (v : Val) : -2147483648 ≤ v.toInt := BitVec.le_toInt v

/-! ### Places in a Bus Word -/

theorem bodyOf_eq (w : BusWord) : bodyOf w = BitVec.extractLsb' 1 31 w := rfl

theorem extractFields_eq (w : BusWord) :
    extractFields w = { pack := rev (BitVec.extractLsb' 24 8 w), sdi := rev (BitVec.extractLsb' 22 2 w),
                        data := rev (BitVec.extractLsb' 3 19 w), ssm := rev (BitVec.extractLsb' 1 2 w) } := rfl

theorem assembleBody_eq (f : WordFields) :
    assembleBody f = BitVec.setWidth 32 (rev f.pack) <<< 24 ||| BitVec.setWidth 32 (rev f.sdi) <<< 22 |||
      BitVec.setWidth 32 (rev f.data) <<< 3 ||| BitVec.setWidth 32 (rev f.ssm) <<< 1 := rfl

/-! ### Values -/

/-- An integer in the range every decoder answers in comes back from the value port. -/
theorem toInt_valPort (v : Int) (h : v.natAbs ≤ 40959375) : (valPort v).toInt = v := by
  change (BitVec.ofInt 32 v).toInt = v
  rw [BitVec.toInt_ofInt, Int.bmod_eq_of_le] <;> omega

/-! ### Label 1 -/

namespace Machine

theorem altBlock_append_toNat (sign : Bool) (code : Ladder) (mode : ModeCode) :
    (altBlock sign code ++ mode).toNat = sign.toNat * 2 ^ 18 + code.toNat * 4 + mode.toNat := by
  have hc : code.toNat < 65536 := code.isLt
  have hm : mode.toNat < 4 := mode.isLt
  rw [altBlock, BitVec.toNat_append, BitVec.toNat_append, BitVec.toNat_ofBool]
  change ((sign.toNat <<< 16 ||| code.toNat) <<< 2 ||| mode.toNat) = _
  rw [← Nat.shiftLeft_add_eq_or_of_lt (show code.toNat < 2 ^ 16 from hc),
    ← Nat.shiftLeft_add_eq_or_of_lt (show mode.toNat < 2 ^ 2 from hm), Nat.shiftLeft_eq, Nat.shiftLeft_eq]
  omega

theorem l1dec_eq (ssm : Status) (data : Data) :
    l1dec ssm data =
      if ssm = 0 ∨ ssm = 2 then { kind := .none }
      else if Config.modeRecognized (BitVec.extractLsb' 0 2 data) = false then { kind := .none }
      else if ssm = 1 then { kind := .absent, mode := BitVec.extractLsb' 0 2 data }
      else { kind := .present, mode := BitVec.extractLsb' 0 2 data,
             val := valPort (if BitVec.getLsbD data 18 then -(ladderDec (BitVec.extractLsb' 2 16 data) : Int)
                             else (ladderDec (BitVec.extractLsb' 2 16 data) : Int)) } := rfl

/-! ### Digit groups -/

theorem dpack4_toNat (m : Nat) : (dpack4 m).toNat = packDigits 4 m := by
  have h : packDigits 4 m < 16 ^ 4 := by simp only [packDigits]; omega
  exact Nat.mod_eq_of_lt (Nat.lt_trans h (by decide))

theorem dpack5_toNat (m : Nat) (h : m ≤ 79999) : (dpack5 m).toNat = packDigits 5 m := by
  refine Nat.mod_eq_of_lt (show packDigits 5 m < 2 ^ 19 from ?_)
  simp only [packDigits]
  omega

theorem dunpack4_eq (d : Data) : dunpack4 d = unpackDigits 4 d.toNat := rfl

theorem dunpack5_eq (d : Data) : dunpack5 d = unpackDigits 5 d.toNat := rfl

end Machine

end Sys2Proof
end

