-- ==== Sys2Proof/Tests/Slice0.lean ====
section
/-!
SUPPORT. The model's own tests. Expected results are those of 95_test_vectors.md, whose ids are named, or are written
out by hand from the encoding tables of 30_encoding.md; the witnesses meet the hypotheses of the obligations.
-/

namespace Sys2Proof.Tests

open Sys2Proof.Machine

/-- The result of one instruction on the state after reset. -/
def answer (i : Instr) : Option Result :=
  match exec i State.reset with
  | .next t => t.resultPort
  | .fault _ => none
  | .refused _ => none

/-- A state with the given inputs issued. -/
def issuing (ps : List Input) : State := { State.reset with issued := ps }

/-! ### Well-formedness: a physical value that does not fit the port is refused, in every instruction that has one -/

theorem test_wf_l1enc_too_large : (Instr.l1enc (some 2147483648) 0).wellFormed = false := by decide
theorem test_wf_l2enc_too_small : (Instr.l2enc (some (-2147483649))).wellFormed = false := by decide
theorem test_wf_l3enc_too_large : (Instr.l3enc (some 2147483648)).wellFormed = false := by decide
theorem test_wf_l4enc_too_small : (Instr.l4enc (some (-2147483649))).wellFormed = false := by decide
theorem test_wf_l5enc_too_large : (Instr.l5enc (some 2147483648)).wellFormed = false := by decide
theorem test_wf_wenc_too_large : (Instr.wenc 1 0 (some 2147483648) 0).wellFormed = false := by decide
theorem test_wf_accepts_the_ends :
    (Instr.l1enc (some 2147483647) 3).wellFormed ∧ (Instr.l1enc (some (-2147483648)) 0).wellFormed ∧
    (Instr.l1enc none 0).wellFormed := by decide

/-! ### Parameters (00_scope.md rule R5) -/

theorem test_field_widths_fill_the_word :
    Config.parW + Config.ssmW + Config.dataW + Config.sdiW + Config.labelW = Config.wordW := by decide
theorem test_label1_fills_the_data_field :
    Config.altBlockW + Config.modeW = Config.dataW ∧ 1 + Config.ladderBits = Config.altBlockW := by decide
theorem test_ladder_steps :
    Config.stepU 0 = 20480000 ∧ Config.stepU 15 = 625 ∧ Config.altMaxU = 20480000 ∧ Config.ladderStop = 512 := by decide
theorem test_digit_groups_fit :
    4 * Config.l23Groups ≤ Config.dataW ∧ 4 * (Config.l4Groups - 1) + 3 = Config.dataW := by decide
theorem test_units : Config.altUnit = 1 / 512 ∧ Config.l23Unit = 1 / 10 ∧ Config.l4Unit = 1 / 100 := by
  norm_num [Config.altUnit, Config.altFracBits, Config.l23Unit, Config.l4Unit]
theorem test_places_in_the_word :
    [Config.ssmLo, Config.dataLo, Config.sdiLo, Config.labelLo, Config.labelLo + Config.labelW] = [1, 3, 22, 24, Config.wordW] ∧
    [Config.ladderLo, Config.signAt] = [2, 18] := by decide
theorem test_kind_codes : [Kind.none, .absent, .present].map kindCode = [0, 1, 2] := by decide

/-! ### Decoding (rules R76, R77) -/

theorem test_decode_op_codes :
    (List.range 16).map (decodeTableWord 8) =
      [.rev .w2 0, .pgen 0, .pchk 0, .l1enc none 0, .l1dec 0 0, .l2enc none, .l2dec 0 0, .l3enc none, .l3dec 0 0,
       .l4enc none, .l4dec 0 0, .l5enc none, .l5dec 0 0, .wenc 0 0 none 0, .wdec 0, .errw].map some := by decide

/-- REV, width 19 (`wsel` = 2 at bit 106), x = 0x08001 at bit 87. -/
theorem test_decode_rev : decodeTableWord 112 (0x0 + 0x08001 * 2 ^ 87 + 2 * 2 ^ 106) = some (.rev .w19 0x08001) := by
  decide

/-- L1ENC, `pres` at bit 18, `val` = 5120000 at bit 19, `mode` = 1 at bit 51. -/
theorem test_decode_l1enc :
    decodeTableWord 112 (0x3 + 2 ^ 18 + 0x004E2000 * 2 ^ 19 + 1 * 2 ^ 51) = some (.l1enc (some 5120000) 1) := by decide

/-- WENC of program P2 step 8: lab 002, sdi 1, −4000. -/
theorem test_decode_wenc :
    decodeTableWord 112 (0xD + 0x002 * 2 ^ 4 + 1 * 2 ^ 16 + 2 ^ 18 + 0xFFFFF060 * 2 ^ 19) =
      some (.wenc 0x002 1 (some (-4000)) 0) := by decide

/-- Program P1's word bit by bit: label field 1000 0000, sdi field 00, data field ones at word bits 21 and 6, status
field 11, parity 0. -/
theorem test_decode_word_l1 :
    decodeTableWord 32 (2 ^ 31 + 2 ^ 21 + 2 ^ 6 + 2 ^ 2 + 2 ^ 1) = some (.wordL1Alt 0 0x08001 3 false) := by decide
/-- WE11: label 002, sdi 1, data 0x04000, status 3. -/
theorem test_decode_word_l2 : decodeTableWord 32 0x40800086 = some (.wordL2Rate 1 0x04000 3 false) := by decide
/-- WE15: label 003, sdi 2, data 0x00160, status 3. -/
theorem test_decode_word_l3 : decodeTableWord 32 0xC041A007 = some (.wordL3Angle 2 0x00160 3 true) := by decide
/-- WE19: label 004, sdi 3, data 0x12345, status 3. -/
theorem test_decode_word_l4 : decodeTableWord 32 0x20E8B127 = some (.wordL4Power 3 0x12345 3 true) := by decide
/-- WE20: label 005, flag 1. -/
theorem test_decode_word_l5 : decodeTableWord 32 0xA0200000 = some (.wordL5Flag 0 1 0 false) := by decide
/-- WD7: label 006 selects no row. -/
theorem test_decode_word_without_codec : decode (.busWord 0x60000001) = .error (.noCodec 0x60) := by rfl

/-! ### Instructions -/

/-- RV20. -/
theorem test_rev_w19 : answer (.rev .w19 0x08001) = some { data := 0x40008 } := by decide
/-- RV24 and RV25. -/
theorem test_rev_excess_and_reserved :
    answer (.rev .w8 0x7FF01) = some { data := 0x80 } ∧ answer (.rev .reserved 0x12345) = some { err := true } := by
  decide
/-- PQ8 and PQ6. -/
theorem test_pgen :
    answer (.pgen 0x80000008) = some { word := 0x80000009 } ∧ answer (.pgen 0xFFFFFFFF) = some { word := 0xFFFFFFFE } := by
  decide
/-- PQ2, PQ4 and PQ11: the polarity of C1. -/
theorem test_pchk :
    answer (.pchk 1) = some { valid := true } ∧ answer (.pchk 3) = some {} ∧ answer (.pchk 0x80200047) = some {} := by
  decide
/-- AE3 and AE23. -/
theorem test_l1enc_sign :
    answer (.l1enc (some (-5120000)) 1) = some { ssm := 3, data := 0x48001 } ∧
    answer (.l1enc (some (-300)) 0) = some { ssm := 3, data := 0x40000 } := by decide
/-- AE5, AE16, AE21. -/
theorem test_l1enc_edges :
    answer (.l1enc (some (-20480000)) 2) = some { ssm := 3, data := 0x60002 } ∧
    answer (.l1enc (some (-2147483648)) 1) = some {} ∧ answer (.l1enc none 3) = some {} := by decide
/-- AD5 and AD9. -/
theorem test_l1dec_present :
    answer (.l1dec 3 0x09E05) = some { kind := .present, val := 6320625, mode := 1 } ∧
    answer (.l1dec 3 0x7FFFD) = some { kind := .present, val := BitVec.ofInt 32 (-40959375), mode := 1 } := by decide
/-- AD13, AD14, AD17. -/
theorem test_l1dec_absent_none :
    answer (.l1dec 1 0x7FFFE) = some { kind := .absent, mode := 2 } ∧ answer (.l1dec 1 3) = some {} ∧
    answer (.l1dec 2 0x08001) = some {} := by decide
/-- DE11 and DE13. -/
theorem test_l2enc :
    answer (.l2enc (some (-9999))) = some { ssm := 3, data := 0x09999 } ∧
    answer (.l2enc (some (-10000))) = some { ssm := 1 } := by decide
/-- DD14 and DD11. -/
theorem test_l2dec :
    answer (.l2dec 3 0x000A0) = some { kind := .present, val := BitVec.ofInt 32 (-100) } ∧
    answer (.l2dec 0 0x71234) = some { kind := .present, val := 1234 } := by decide
/-- DE9 and DE16, for label 3. -/
theorem test_l3enc :
    answer (.l3enc (some 1234)) = some { data := 0x01234 } ∧ answer (.l3enc none) = some { ssm := 1 } := by decide
/-- DD4 and DD9, for label 3. -/
theorem test_l3dec :
    answer (.l3dec 3 0x00160) = some { kind := .present, val := BitVec.ofInt 32 (-160) } ∧
    answer (.l3dec 1 0x01234) = some { kind := .absent } := by decide
/-- PE8 and PE11. -/
theorem test_l4enc :
    answer (.l4enc (some (-12345))) = some { ssm := 3, data := 0x12345 } ∧
    answer (.l4enc (some 80000)) = some { ssm := 1 } := by decide
/-- PD9 and PD5. -/
theorem test_l4dec :
    answer (.l4dec 3 0x7FFFF) = some { kind := .present, val := BitVec.ofInt 32 (-86665) } ∧
    answer (.l4dec 2 0x10000) = some { kind := .present, val := 10000 } := by decide
/-- FL3 and FL5. -/
theorem test_l5enc :
    answer (.l5enc (some (-5))) = some { data := 1 } ∧ answer (.l5enc none) = some { ssm := 1 } := by decide
/-- FL10 and FL13. -/
theorem test_l5dec :
    answer (.l5dec 0 0x40000) = some { kind := .present, val := 1 } ∧ answer (.l5dec 1 1) = some { kind := .absent } := by
  decide
/-- WE2 and WE16. -/
theorem test_wenc :
    answer (.wenc 0x001 2 (some (-5120000)) 1) = some { word := 0x8060004E } ∧
    answer (.wenc 0x003 3 (some 105) 0) = some { word := 0xC0E82000 } := by decide
/-- WR14 and WR4. -/
theorem test_wenc_refuses :
    answer (.wenc 0x801 0 (some 1) 0) = some { err := true, word := 4 } ∧
    answer (.wenc 0x010 0 (some 1) 0) = some { err := true, word := 4 } := by decide
/-- WD16. -/
theorem test_wdec_beyond_range :
    answer (.wdec 0x8020005E) = some { valid := true, lab := 0x001, ssm := 3, kind := .present,
                                       val := BitVec.ofInt 32 (-25600000), mode := 1 } := by decide
/-- WD4, WD12, WD18. -/
theorem test_wdec_invalid_and_none :
    answer (.wdec 0x81200046) = some {} ∧ answer (.wdec 0xFF000001) = some {} ∧
    answer (.wdec 0x80300006) = some { valid := true, lab := 0x001, ssm := 3 } := by decide
/-- EW1. -/
theorem test_errw : answer .errw = some { word := 0x00000004 } := by decide
/-- WE9, decoded as a row; the wrong parity bit gives the invalid record. -/
theorem test_word_l1 :
    answer (.wordL1Alt 0 0x09E05 3 true) = some { valid := true, lab := 0x001, ssm := 3, kind := .present,
                                                  val := 6320625, mode := 1 } ∧
    answer (.wordL1Alt 0 0x09E05 3 false) = some {} := by decide
/-- WD20. -/
theorem test_word_l2 :
    answer (.wordL2Rate 1 0x01234 2 true) = some { valid := true, lab := 0x002, sdi := 1, ssm := 2, kind := .present,
                                                   val := 1234 } := by decide
/-- WE15. -/
theorem test_word_l3 :
    answer (.wordL3Angle 2 0x00160 3 true) = some { valid := true, lab := 0x003, sdi := 2, ssm := 3, kind := .present,
                                                    val := BitVec.ofInt 32 (-160) } := by decide
/-- WD21. -/
theorem test_word_l4 :
    answer (.wordL4Power 3 0x7FFFF 3 true) = some { valid := true, lab := 0x004, sdi := 3, ssm := 3, kind := .present,
                                                    val := BitVec.ofInt 32 (-86665) } := by decide
/-- WE22. -/
theorem test_word_l5 : answer (.wordL5Flag 0 0 1 false) = some { valid := true, lab := 0x005, ssm := 1, kind := .absent } := by
  decide

/-! ### The step -/

/-- WD7: a bare Bus Word without a codec is answered, not refused. -/
theorem test_step_word_without_codec :
    step (issuing [.busWord 0x60000001]) =
      .next { issued := [], taken := [.busWord 0x60000001], results := [{}] } := by rfl
/-- The instruction presented by `withFetchWord` is the next one made, before what was already issued. -/
theorem test_withFetchWord :
    step ((issuing [.busWord 0]).withFetchWord 8 0xF) =
      .next { issued := [.busWord 0], taken := [.command { op := 0xF }], results := [{ word := 4 }] } := by rfl

/-! ### Witnesses: the hypotheses of each obligation are met -/

theorem witness_DecodeEncodeRoundTrip : (Instr.wenc 0x001 3 (some (-2147483648)) 3).wellFormed = true := by decide
theorem witness_DecodedBusWordReencodes : decode (.busWord 0x80200047) = .ok (.wordL1Alt 0 0x08001 3 true) := by rfl
theorem witness_LabelFieldSelectsTheRow :
    (0xA0FFFFFF : BusWord).extractLsb' 24 8 = labelField .flag ∧
    (0x20000000 : BusWord).extractLsb' 24 8 = labelField .power := by decide
theorem witness_LabelFieldSelectsTheRow_none (c : Codec) : (0xFFFFFFFF : BusWord).extractLsb' 24 8 ≠ labelField c := by
  cases c <;> decide
theorem witness_DecodedInstructionIsWellFormed :
    decode (.command { op := 0x3, pres := true, val := 0x80000000 }) = .ok (.l1enc (some (-2147483648)) 0) := by rfl
/-- A REV command of each width select, and an L1ENC command with and without a value. -/
theorem witness_OperationSelectChoosesTheInstruction :
    ({ op := 0x0, wsel := 3, data := 5 } : Command).op = 0x0 ∧ ({ op := 0x0, wsel := 3, data := 5 } : Command).wsel = 3 ∧
    ({ op := 0x3, pres := true, val := 7 } : Command).pres = true ∧ ({ op := 0x3, val := 7 } : Command).pres = false := by
  decide
theorem witness_StepRunsTheDecodedInstruction :
    (issuing [.command { op := 0xF }]).issued = .command { op := 0xF } :: [] ∧
    decode (.command { op := 0xF }) = .ok .errw := ⟨rfl, rfl⟩
theorem witness_StepWithNothingIssuedStays : State.reset.issued = [] := by decide
theorem witness_BareBusWordIsAnsweredAsWdec :
    ({ op := 0xE, word := 0x80200046, sdi := 3 } : Command).op = 0xE ∧
    ({ op := 0xE, word := 0x80200046, sdi := 3 } : Command).word = 0x80200046 := by decide
theorem witness_EveryStepAnswersANextState : (issuing [.busWord 0]).issued = .busWord 0 :: [] := by decide
theorem witness_StepKeepsTheRunFaithful :
    (issuing [.command { op := 0xF }, .busWord 0]).IsRunOf [.command { op := 0xF }, .busWord 0] ∧
    step (issuing [.command { op := 0xF }, .busWord 0]) =
      .next { issued := [.busWord 0], taken := [.command { op := 0xF }], results := [{ word := 4 }] } :=
  ⟨⟨rfl, rfl⟩, rfl⟩
theorem witness_EqualCommandsGiveEqualResults :
    (issuing [.busWord 1]).issued = .busWord 1 :: [] ∧
    (issuing [.busWord 1, .busWord 2]).issued = .busWord 1 :: [.busWord 2] := by decide
/-- Two WENC commands of label 2, absent, that differ in every field they do not read. -/
def absentA : Command := { op := 0xD, lab := 0x002, sdi := 1 }
@[inherit_doc absentA] def absentB : Command :=
  { op := 0xD, lab := 0x002, sdi := 1, val := 5, mode := 3, word := 6, ssm := 2, data := 7, wsel := 3 }
theorem witness_UnreadFieldsHaveNoEffect :
    absentA ≠ absentB ∧ absentA.op = absentB.op ∧ absentA.pres = absentB.pres ∧
    (absentA.pres = true → absentA.val = absentB.val) ∧ absentA.lab = absentB.lab ∧ absentA.sdi = absentB.sdi ∧
    (absentA.lab = 0x001 → absentA.mode = absentB.mode) := by decide
/-- Two REV commands that differ in a field REV does not read. -/
theorem witness_UnreadFieldsHaveNoEffect_rev :
    ({ op := 0x0, data := 5, wsel := 3 } : Command).wsel = ({ op := 0x0, data := 5, wsel := 3, word := 9 } : Command).wsel ∧
    ({ op := 0x0, data := 5, wsel := 3 } : Command).data = ({ op := 0x0, data := 5, wsel := 3, word := 9 } : Command).data := by
  decide
/-- The same for the operations that read `word`, those that read `ssm` and `data`, and L1ENC. -/
theorem witness_UnreadFieldsHaveNoEffect_others :
    ({ op := 0xE, word := 7 } : Command).word = ({ op := 0xE, word := 7, lab := 1 } : Command).word ∧
    (({ op := 0xC, ssm := 3, data := 7 } : Command).ssm = ({ op := 0xC, ssm := 3, data := 7, lab := 1 } : Command).ssm ∧
     ({ op := 0xC, ssm := 3, data := 7 } : Command).data = ({ op := 0xC, ssm := 3, data := 7, lab := 1 } : Command).data) ∧
    ({ op := 0x3, mode := 2 } : Command).mode = ({ op := 0x3, mode := 2, val := 8 } : Command).mode := by decide
theorem witness_ReversalExchangesTheBits : 18 < 19 ∧ 0 < 19 := by decide
theorem witness_RevAnswersTheReversedField :
    ((RevSel.w2 = .w2 ∧ 2 = 2) ∧ (RevSel.w8 = .w8 ∧ 8 = 8) ∧ (RevSel.w19 = .w19 ∧ 19 = 19)) := by decide
theorem witness_ParityBitMakesTheCountOdd :
    (0xFFFFFFFE : BusWord).extractLsb' 1 31 = (0xFFFFFFFF : BusWord).extractLsb' 1 31 := by decide
theorem witness_PgenSetsTheParityBit : onesIn (0x80000000 : BusWord) % 2 = 1 := by decide
theorem witness_PchkCountsTheOnes :
    ({ op := 0x2, word := 3, data := 9 } : Command).op = 0x2 ∧ ({ op := 0x2, word := 3, data := 9 } : Command).word = 3 := by
  decide
theorem witness_ReversalLaws : 18 < 19 ∧ 0 < 2 := by decide
theorem witness_ParityLaws : 31 < 32 ∧ 0 < 32 := by decide
theorem witness_LadderIsTruncatingDivision : 20479999 ≤ 20480000 ∧ 20480000 ≤ 20480000 := by decide
theorem witness_LadderStandsForFeet : 15 < 16 ∧ 0 < 16 := by decide
theorem witness_L1encPacksAltitudeAndMode :
    (3 : ModeCode) = 3 ∧ (2 : ModeCode) ≠ 3 ∧ 20480000 < (20480001 : Int).natAbs ∧
    (-20480000 : Int).natAbs ≤ 20480000 := by decide
theorem witness_L1decUnpacksAltitudeAndMode :
    ((2 : Status) = 0 ∨ (2 : Status) = 2) ∧ ((3 : Status) = 1 ∨ (3 : Status) = 3) ∧ (0x7FFFF : Data).toNat % 4 = 3 ∧
    (0x7FFFE : Data).toNat % 4 ≠ 3 := by decide
theorem witness_AltitudeRoundTrip :
    (0 : ModeCode) ≠ 3 ∧ (-20480000 : Int).natAbs ≤ 20480000 ∧ 20480000 < (-20480001 : Int).natAbs := by decide
theorem witness_L2encAndL3encPackFourDigits :
    ((Instr.l2enc = Instr.l2enc) ∨ (Instr.l2enc = Instr.l3enc)) ∧ 9999 < (-10000 : Int).natAbs ∧
    (-9999 : Int).natAbs ≤ 9999 := ⟨.inl rfl, by decide, by decide⟩
theorem witness_L2decAndL3decUnpackFourGroups :
    ((Instr.l3dec = Instr.l2dec) ∨ (Instr.l3dec = Instr.l3dec)) ∧ (1 : Status) = 1 ∧ (2 : Status) ≠ 1 :=
  ⟨.inr rfl, by decide, by decide⟩
theorem witness_L4encPacksFiveDigits : 79999 < (-80000 : Int).natAbs ∧ (79999 : Int).natAbs ≤ 79999 := by decide
theorem witness_L4decUnpacksFiveGroups : (1 : Status) = 1 ∧ (3 : Status) ≠ 1 := by decide
theorem witness_L5PacksAndUnpacksTheFlag : (-1 : Int) ≠ 0 ∧ (3 : Status) ≠ 1 ∧ (0x40000 : Data) ≠ 0 := by decide
theorem witness_DigitGroupsAreInverse : 9999 ≤ 9999 ∧ 79999 ≤ 79999 := by decide
theorem witness_LabelsTwoToFiveRoundTrip :
    Codec.flag ≠ .alt ∧ Codec.power ≠ .alt ∧ Codec.power ≠ .flag ∧
    (79999 : Int).natAbs ≤ (if Codec.power = .power then 79999 else 9999) ∧
    (if Codec.rate = .power then 79999 else 9999) < (-10000 : Int).natAbs := by decide
theorem witness_RoundTripWithinThePrecision :
    Codec.alt ≠ .flag ∧ (Codec.alt = .alt → (2 : ModeCode) ≠ 3) ∧
    (-20480000 : Int).natAbs ≤ (if Codec.alt = .alt then 20480000 else if Codec.alt = .power then 79999 else 9999) ∧
    Codec.power ≠ .flag ∧ (Codec.power = .alt → (3 : ModeCode) ≠ 3) ∧
    (79999 : Int).natAbs ≤ (if Codec.power = .alt then 20480000 else if Codec.power = .power then 79999 else 9999) ∧
    Codec.rate ≠ .alt := by decide
theorem witness_WencWithoutCodecRefuses (c : Codec) : (0x801 : Lab) ≠ labOf c ∧ (0x006 : Lab) ≠ labOf c := by
  cases c <;> decide
theorem witness_WdecTakesTheWordApart :
    onesIn (0x80200047 : BusWord) % 2 = 0 ∧ onesIn (0x80200046 : BusWord) % 2 = 1 ∧
    (0x80200046 : BusWord).extractLsb' 24 8 = labelField .alt := by decide
theorem witness_WdecWithoutCodecIsInvalid :
    onesIn (0x60000001 : BusWord) % 2 = 1 ∧ (rev ((0x60000001 : BusWord).extractLsb' 24 8)).toNat = 6 := by decide
theorem witness_FlippedBitIsDetected :
    ∃ lab sdi val mode, Instr.wenc 0x000 3 none 3 = .wenc lab sdi val mode := ⟨_, _, _, _, rfl⟩
/-- WE12 and WE13: two commands whose value codecs give the same status and data give the same word. -/
theorem witness_WencIsInjective :
    Answers (.wenc (labOf .rate) 0 none 0) State.reset { word := 0x40000005 } ∧
    Answers (.wenc (labOf .rate) 0 (some 10000) 3) State.reset { word := 0x40000005 } := ⟨rfl, rfl⟩
theorem witness_SdiIsCarriedUnchanged :
    onesIn (0xC0282000 : BusWord) % 2 = 1 ∧ onesIn (0xC0E82000 : BusWord) % 2 = 1 ∧
    (∀ i < 32, i ≠ 0 → i ≠ 22 → i ≠ 23 → (0xC0E82000 : BusWord).getLsbD i = (0xC0282000 : BusWord).getLsbD i) ∧
    (0xC0E82000 : BusWord).extractLsb' 24 8 = labelField .angle := by decide
theorem witness_InvalidWordCauses :
    Answers (.pchk 0x60000001) State.reset { valid := true } ∧ Answers (.wdec 0x60000001) State.reset { valid := false } :=
  ⟨rfl, rfl⟩
theorem witness_SentinelsAreNotErrors :
    ((0 : Status) = 0 ∨ (0 : Status) = 2) ∧ (0x00003 : Data).toNat % 4 = 3 := by decide
theorem witness_AltitudeSentinelWord :
    (3 : ModeCode) = 3 ∧ ∃ v : Int, some (-20480001) = some v ∧ 20480000 < v.natAbs := ⟨rfl, -20480001, rfl, by decide⟩

end Sys2Proof.Tests
end

section
/-!
PROOFS. The bit-field utilities (40_bitfield.md rules R100, R103, R105): a number as the sum of its bits, the count of
ones of a vector, and the parity of a Bus Word.
-/

namespace Sys2Proof

open Machine

/-! ### Bits, added up and counted -/

/-- The low `w` bits of a number, added up at their weights, are the number below `2^w`. -/
theorem sum_testBit_range (w x : Nat) :
    ((List.range w).map fun i => (x.testBit i).toNat * 2 ^ i).sum = x % 2 ^ w := by
  induction w with
  | zero => simp [Nat.mod_one]
  | succ w ih =>
    rw [List.range_succ, List.map_append, List.sum_append, ih, List.map_singleton, List.sum_singleton, Nat.mod_pow_succ,
      Nat.toNat_testBit, Nat.mul_comm (2 ^ w)]

/-- The bits of a vector, added up at their weights, are its number. -/
theorem sum_getLsbD_range {w : Nat} (v : BitVec w) :
    ((List.range w).map fun i => (v.getLsbD i).toNat * 2 ^ i).sum = v.toNat := by
  simpa only [BitVec.testBit_toNat, Nat.mod_eq_of_lt v.isLt] using sum_testBit_range w v.toNat

/-- One more one turns an even count into an odd one and back. -/
theorem decide_odd_succ (n : Nat) : decide ((n + 1) % 2 = 1) = !decide (n % 2 = 1) := by
  rw [← decide_not]
  exact decide_eq_decide.mpr (by omega)

/-- The running exclusive or of bits says whether the count of ones among them is odd. -/
theorem foldl_xor_eq_odd_countP {α : Type} (p : α → Bool) (l : List α) (b : Bool) :
    l.foldl (fun a i => a ^^ p i) b = (b ^^ decide (l.countP p % 2 = 1)) := by
  induction l generalizing b with
  | nil => simp
  | cons i l ih =>
    rw [List.foldl_cons, ih, List.countP_cons]
    cases p i with
    | false => simp
    | true => rw [if_pos rfl, decide_odd_succ]; simp

/-- The ones of a slice that leaves out bit 0, counted in the whole vector. -/
theorem onesIn_extractLsb'_one {m : Nat} (n : Nat) (v : BitVec m) :
    onesIn (v.extractLsb' 1 n) = (List.range n).countP fun i => v.getLsbD (i + 1) :=
  List.countP_congr fun i hi => by
    rw [BitVec.getLsbD_extractLsb', Nat.add_comm 1 i, decide_eq_true (List.mem_range.mp hi), Bool.true_and]

/-- The ones of a vector are its bit 0 and the ones above it. -/
theorem onesIn_eq_bit_zero_add {n : Nat} (v : BitVec (n + 1)) :
    onesIn v = (v.getLsbD 0).toNat + onesIn (v.extractLsb' 1 n) := by
  rw [onesIn_extractLsb'_one, onesIn, List.range_succ_eq_map, List.countP_cons, List.countP_map, Nat.add_comm]
  cases v.getLsbD 0 <;> rfl

/-- A bit appended below a vector counts as itself. -/
theorem onesIn_append_ofBool {n : Nat} (v : BitVec n) (b : Bool) :
    onesIn (v ++ BitVec.ofBool b) = b.toNat + onesIn v := by
  have hbit : (v ++ BitVec.ofBool b).getLsbD 0 = b := by
    rw [BitVec.getLsbD_append, if_pos Nat.one_pos, BitVec.getLsbD_ofBool, decide_eq_true rfl, Bool.true_and]
  have hrest : (v ++ BitVec.ofBool b).extractLsb' 1 n = v := by
    ext i hi
    rw [BitVec.getElem_extractLsb', BitVec.getLsbD_append, if_neg (by omega), Nat.add_sub_cancel_left,
      BitVec.getLsbD_eq_getElem]
  rw [onesIn_eq_bit_zero_add, hbit, hrest]

/-! ### Parity and validity of a Bus Word, by the count of ones -/

theorem par_eq_even_body (w : BusWord) : par w = decide (onesIn (w.extractLsb' 1 31) % 2 = 0) := by
  rw [par, popcount_eq_onesIn, bodyOf_eq]
  rfl

theorem par_eq_not_odd_body (w : BusWord) : par w = !decide (onesIn (w.extractLsb' 1 31) % 2 = 1) := by
  rw [par_eq_even_body, ← decide_not]
  exact decide_eq_decide.mpr Nat.mod_two_ne_one.symm

theorem wordValid_eq_odd (w : BusWord) : wordValid w = decide (onesIn w % 2 = 1) := by
  rw [wordValid, popcount_eq_onesIn]
  rfl

/-- The parity bit makes the count of ones odd. -/
theorem odd_onesIn_append_par (w : BusWord) : onesIn (w.extractLsb' 1 31 ++ BitVec.ofBool (par w)) % 2 = 1 := by
  rw [onesIn_append_ofBool, par_eq_even_body]
  obtain h | h := Nat.mod_two_eq_zero_or_one (onesIn (w.extractLsb' 1 31))
  · rw [decide_eq_true h, Bool.toNat_true]; omega
  · rw [decide_eq_false (by omega), Bool.toNat_false]; omega

/-- A word's count of ones is odd exactly when its bit 0 is the parity of the rest. -/
theorem odd_onesIn_eq_parity_agrees (w : BusWord) : decide (onesIn w % 2 = 1) = (w.getLsbD 0 == par w) := by
  have hcount : onesIn w = (w.getLsbD 0).toNat + onesIn (w.extractLsb' 1 31) := onesIn_eq_bit_zero_add (n := 31) w
  rw [hcount, par_eq_not_odd_body]
  cases w.getLsbD 0 with
  | false => simp
  | true => rw [Bool.toNat_true, Nat.add_comm, decide_odd_succ]; simp

/-! ### PCHK -/

theorem answers_of_exec_eq_complete {i : Instr} {s : State} {r : Result} (h : exec i s = complete r s) :
    Answers i s r := h

/-- PCHK's result depends on the word's count of ones alone. -/
theorem answers_pchk (s : State) (w : BusWord) : Answers (.pchk w) s { valid := decide (onesIn w % 2 = 1) } :=
  answers_of_exec_eq_complete (by rw [exec_pchk, wordValid_eq_odd])

theorem answers_pchk_valid {w : BusWord} (s : State) (h : onesIn w % 2 = 1) :
    Answers (.pchk w) s { valid := true } := by
  simpa only [h, decide_true] using answers_pchk s w

theorem answers_pchk_invalid {w : BusWord} (s : State) (h : onesIn w % 2 = 0) :
    Answers (.pchk w) s { valid := false } := by
  simpa [h] using answers_pchk s w

/-- Operation select 0x2 is PCHK, and of the command it reads `word` alone (rules R72, R76). -/
theorem decode_pchk {c : Command} (h : c.op = 0x2) : decode (.command c) = .ok (.pchk c.word) := by
  rw [decode, decodeCommand, h]
  rfl

/-! ### The obligations -/

/-- Settles O17: bit by bit from the bits of a reversal, and the sum because a vector is the sum of its bits. -/
theorem reversalExchangesTheBits : Obligations.ReversalExchangesTheBits := by
  intro w x
  have hbit : ∀ i < w, (rev x).getLsbD i = x.getLsbD (w - 1 - i) := fun i hi => by
    rw [getLsbD_rev, decide_eq_true hi, Bool.true_and]
  refine ⟨hbit, ?_⟩
  rw [← sum_getLsbD_range (rev x)]
  congr 1
  exact List.map_congr_left fun i hi => by rw [hbit i (List.mem_range.mp hi)]

/-- Settles O20: the parity is a function of the count of ones above bit 0, which the exclusive or counts modulo 2. -/
theorem parityBitMakesTheCountOdd : Obligations.ParityBitMakesTheCountOdd := by
  intro w
  refine ⟨par_eq_even_body w, ?_, fun v hv => ?_, odd_onesIn_append_par w⟩
  · rw [foldl_xor_eq_odd_countP, Bool.false_xor, par_eq_not_odd_body, onesIn_extractLsb'_one]
  · rw [par_eq_even_body, par_eq_even_body, hv]

/-- Settles O22: PCHK answers the parity of the count of ones; the four words of the spec have 0, 32, 1 and 5 ones. -/
theorem pchkCountsTheOnes : Obligations.PchkCountsTheOnes := by
  intro s w
  refine ⟨answers_pchk s w, ?_, odd_onesIn_eq_parity_agrees w, answers_pchk_invalid s (by decide),
    answers_pchk_invalid s (by decide), answers_pchk_valid s (by decide), answers_pchk_valid s (by decide)⟩
  rintro c hop rfl
  exact decode_pchk hop

end Sys2Proof
end

section
/-!
PROOFS. The Label Value Codecs (41_label_codecs.md rule R155): each operation answers the result of its codec's encoder
or decoder, which is a function of the operands.
-/

namespace Sys2Proof

open Machine

/-- Each encoding operation completes with the status and data of its codec, in every state. -/
theorem exec_encOp (c : Codec) (val : Option Int) (mode : ModeCode) (s : State) :
    exec (encOp c val mode) s = complete (encodedResult (encodeBy c val mode)) s := by
  cases c with
  | alt => exact exec_l1enc s val mode
  | rate => exact exec_l2enc s val
  | angle => exact exec_l3enc s val
  | power => exact exec_l4enc s val
  | flag => exact exec_l5enc s val

/-- Each decoding operation completes with the payload of its codec, in every state. -/
theorem exec_decOp (c : Codec) (ssm : Status) (data : Data) (s : State) :
    exec (decOp c ssm data) s = complete (payloadResult (decodeBy c ssm data)) s := by
  cases c with
  | alt => exact exec_l1dec s ssm data
  | rate => exact exec_l2dec s ssm data
  | angle => exact exec_l3dec s ssm data
  | power => exact exec_l4dec s ssm data
  | flag => exact exec_l5dec s ssm data

theorem answers_encOp (c : Codec) (val : Option Int) (mode : ModeCode) (s : State) :
    Answers (encOp c val mode) s (encodedResult (encodeBy c val mode)) :=
  answers_of_exec_eq_complete (exec_encOp c val mode s)

theorem answers_decOp (c : Codec) (ssm : Status) (data : Data) (s : State) :
    Answers (decOp c ssm data) s (payloadResult (decodeBy c ssm data)) :=
  answers_of_exec_eq_complete (exec_decOp c ssm data s)

/-- Settles O38: the one result is that of the codec's encoder or decoder, neither of which is given the state, and
neither result sets `err`. -/
theorem valueCodecsArePureAndTotal : Obligations.ValueCodecsArePureAndTotal :=
  ⟨fun c val mode => ⟨(encodeBy c val mode).ssm, (encodeBy c val mode).data, answers_encOp c val mode⟩,
    fun c ssm data => ⟨(decodeBy c ssm data).kind, (decodeBy c ssm data).val, (decodeBy c ssm data).mode,
      answers_decOp c ssm data⟩⟩

end Sys2Proof
end

section
/-!
PROOFS. Reversal and parity (40_bitfield.md rules R100 to R106): the reversal is an involution that keeps the count of
ones, the count of an exclusive or is the sum of the counts modulo 2, and what REV and PGEN answer.
-/

namespace Sys2Proof

open Machine

/-! ### Reversal -/

@[simp] theorem rev_rev {w : Nat} (x : BitVec w) : rev (rev x) = x := by
  ext i hi
  rw [getElem_rev, getElem_rev]
  congr 1
  omega

/-- The indices below `w` from the top down. -/
theorem map_sub_range (w : Nat) : (List.range w).map (fun i => w - 1 - i) = (List.range w).reverse := by
  rw [List.range_eq_range' (n := w), List.reverse_range', List.range_eq_range']
  exact List.map_congr_left fun i _ => by omega

/-- A reversal has as many ones: it counts the same bits from the top down. -/
theorem onesIn_rev {w : Nat} (x : BitVec w) : onesIn (rev x) = onesIn x := by
  have hbits : onesIn (rev x) = (List.range w).countP fun i => x.getLsbD (w - 1 - i) :=
    List.countP_congr fun i hi => by rw [getLsbD_rev, decide_eq_true (List.mem_range.mp hi), Bool.true_and]
  have hindices : (List.range w).countP (fun i => x.getLsbD (w - 1 - i)) =
      ((List.range w).map fun i => w - 1 - i).countP x.getLsbD := by rw [List.countP_map]; rfl
  rw [hbits, hindices, map_sub_range, List.countP_reverse, onesIn]

theorem rev_bijective (w : Nat) : Function.Bijective (rev (w := w)) :=
  Function.Involutive.bijective rev_rev

theorem rev_zero (w : Nat) : rev (0 : BitVec w) = 0 := by
  ext i hi
  simp

theorem rev_allOnes (w : Nat) : rev (BitVec.allOnes w) = BitVec.allOnes w := by
  ext i hi
  simp

/-- A single one at place `j` goes to place `w − 1 − j`. -/
theorem rev_twoPow {w j : Nat} (h : j < w) : rev (BitVec.twoPow w j) = BitVec.twoPow w (w - 1 - j) := by
  refine BitVec.eq_of_getLsbD_eq fun i hi => ?_
  rw [getLsbD_rev, BitVec.getLsbD_twoPow, BitVec.getLsbD_twoPow, decide_eq_true hi, decide_eq_true h,
    decide_eq_true (show w - 1 - j < w by omega), Bool.true_and, Bool.true_and, Bool.true_and]
  exact decide_eq_decide.mpr (by omega)

/-- Settles O18: each law from the bits of a reversal. -/
theorem reversalLaws : Obligations.ReversalLaws :=
  ⟨fun _ x => ⟨rev_rev x, onesIn_rev x⟩, fun w => ⟨rev_bijective w, rev_zero w, rev_allOnes w⟩,
    fun _ _ => rev_twoPow, by decide⟩

/-! ### REV -/

/-- The bits of REV's result: below the width those of the reversed operand, 0 at and above it. -/
theorem getLsbD_revLow {w : Nat} (hw : w ≤ 19) (x : Data) (i : Nat) :
    (revLow w x).getLsbD i = (decide (i < w) && x.getLsbD (w - 1 - i)) := by
  rw [revLow, BitVec.getLsbD_setWidth, getLsbD_rev, BitVec.getLsbD_setWidth]
  by_cases hi : i < w
  · have h1 : i < 19 := by omega
    have h2 : w - 1 - i < w := by omega
    simp [hi, h1, h2]
  · simp [hi]

/-- REV with a width select that has a width answers the reversed low bits. -/
theorem answers_rev {sel : RevSel} {w : Nat} (h : Config.revWidth sel = some w) (x : Data) (s : State) :
    Answers (.rev sel x) s { data := revLow w x } :=
  answers_of_exec_eq_complete (by rw [exec_rev, revResult, h])

/-- Settles O19: the widths of the three codes, and the bits of a reversed low part. -/
theorem revAnswersTheReversedField : Obligations.RevAnswersTheReversedField := by
  refine fun s x => ⟨fun sel w hsel => ?_, answers_of_exec_eq_complete (exec_rev s .reserved x)⟩
  have hw : Config.revWidth sel = some w ∧ w ≤ 19 := by
    obtain ⟨rfl, rfl⟩ | ⟨rfl, rfl⟩ | ⟨rfl, rfl⟩ := hsel <;> decide
  exact ⟨revLow w x, answers_rev hw.1 x s, fun i _ => getLsbD_revLow hw.2 x i⟩

/-! ### The count of ones of an exclusive or -/

/-- What holds at an odd number of places modulo 2: the places where exactly one of two predicates holds. -/
theorem countP_xor_mod_two {α : Type} (p q : α → Bool) (l : List α) :
    (l.countP fun i => p i ^^ q i) % 2 = (l.countP p + l.countP q) % 2 := by
  induction l with
  | nil => rfl
  | cons i l ih =>
    simp only [List.countP_cons]
    cases p i <;> cases q i <;> simp <;> omega

theorem onesIn_xor_mod_two {w : Nat} (v m : BitVec w) : onesIn (v ^^^ m) % 2 = (onesIn v + onesIn m) % 2 := by
  simp only [onesIn, BitVec.getLsbD_xor]
  exact countP_xor_mod_two _ _ _

theorem onesIn_twoPow {w b : Nat} (h : b < w) : onesIn (BitVec.twoPow w b) = 1 := by
  have hcount : onesIn (BitVec.twoPow w b) = (List.range w).count b :=
    List.countP_congr fun i _ => by
      rw [BitVec.getLsbD_twoPow, decide_eq_true h, Bool.true_and, decide_eq_true_iff, beq_iff_eq, eq_comm]
  rw [hcount]
  exact List.count_eq_one_of_mem List.nodup_range (List.mem_range.mpr h)

/-- Flipping one bit of a word with an odd count of ones makes the count even. -/
theorem even_onesIn_flip {w : BusWord} (h : onesIn w % 2 = 1) {b : Nat} (hb : b < 32) :
    onesIn (w ^^^ BitVec.twoPow 32 b) % 2 = 0 := by
  rw [onesIn_xor_mod_two, onesIn_twoPow hb]
  omega

/-! ### PGEN -/

theorem odd_onesIn_withPar (w : BusWord) : onesIn (withPar w) % 2 = 1 := odd_onesIn_append_par w

/-- A word with an odd count of ones has its parity bit already. -/
theorem withPar_of_odd {w : BusWord} (h : onesIn w % 2 = 1) : withPar w = w := by
  have hpar : w.getLsbD 0 = par w := by
    simpa [h] using odd_onesIn_eq_parity_agrees w
  refine BitVec.eq_of_getLsbD_eq fun i _ => ?_
  rw [getLsbD_withPar]
  split
  case isTrue hi => rw [hi, hpar]
  case isFalse => rfl

theorem answers_pgen (s : State) (w : BusWord) : Answers (.pgen w) s { word := withPar w } :=
  answers_of_exec_eq_complete (exec_pgen s w)

/-- Settles O21: bit 0 of PGEN's word is the parity, its other bits are the operand's. -/
theorem pgenSetsTheParityBit : Obligations.PgenSetsTheParityBit := by
  refine fun s w => ⟨withPar w, answers_pgen s w, fun i _ => ?_, ?_, odd_onesIn_withPar w, withPar_of_odd⟩
  · rw [getLsbD_withPar, if_neg (Nat.succ_ne_zero i)]
  · rw [getLsbD_withPar, if_pos rfl, par_eq_even_body, onesIn_extractLsb'_one]

/-- Settles O23: PGEN's word has an odd count of ones, to which flipped bits add their number modulo 2. -/
theorem parityLaws : Obligations.ParityLaws := by
  intro s w
  have hodd := odd_onesIn_withPar w
  refine ⟨withPar w, answers_pgen s w, answers_pchk_valid s hodd, ?_,
    fun b hb => answers_pchk_invalid s (even_onesIn_flip hodd hb), fun m => ?_⟩
  · simpa only [withPar_of_odd hodd] using answers_pgen s (withPar w)
  · have hcount : decide (onesIn (withPar w ^^^ m) % 2 = 1) = decide (onesIn m % 2 = 0) := by
      rw [onesIn_xor_mod_two]
      exact decide_eq_decide.mpr (by omega)
    simpa only [hcount] using answers_pchk s (withPar w ^^^ m)

end Sys2Proof
end

section
/-!
PROOFS. The fields of a Bus Word (30_encoding.md rules R60 to R63, R77): assembly and extraction, both told in terms of
the pattern word of a label field, three field values and a parity bit.
-/

namespace Sys2Proof

open Machine

/-! ### The bits and the ones of a pattern word -/

theorem getLsbD_rev_of_lt {w i : Nat} (x : BitVec w) (h : i < w) : (rev x).getLsbD i = x.getLsbD (w - 1 - i) := by
  rw [getLsbD_rev, decide_eq_true h, Bool.true_and]

section Pattern

variable (field : Pack) (sdi : Sdi) (data : Data) (ssm : Status) (p : Bool)

theorem getLsbD_patternWord_parity : (patternWord field sdi data ssm p).getLsbD 0 = p := by
  rw [getLsbD_patternWord, if_pos (by omega)]

theorem getLsbD_patternWord_ssm {i : Nat} (h : i < 2) :
    (patternWord field sdi data ssm p).getLsbD (1 + i) = ssm.getLsbD (1 - i) := by
  rw [getLsbD_patternWord, if_neg (by omega), if_pos (by omega), Nat.add_sub_cancel_left]
  exact getLsbD_rev_of_lt ssm h

theorem getLsbD_patternWord_data {i : Nat} (h : i < 19) :
    (patternWord field sdi data ssm p).getLsbD (3 + i) = data.getLsbD (18 - i) := by
  rw [getLsbD_patternWord, if_neg (by omega), if_neg (by omega), if_pos (by omega), Nat.add_sub_cancel_left]
  exact getLsbD_rev_of_lt data h

theorem getLsbD_patternWord_sdi {i : Nat} (h : i < 2) :
    (patternWord field sdi data ssm p).getLsbD (22 + i) = sdi.getLsbD (1 - i) := by
  rw [getLsbD_patternWord, if_neg (by omega), if_neg (by omega), if_neg (by omega), if_pos (by omega),
    Nat.add_sub_cancel_left]
  exact getLsbD_rev_of_lt sdi h

theorem getLsbD_patternWord_label {i : Nat} :
    (patternWord field sdi data ssm p).getLsbD (24 + i) = field.getLsbD i := by
  rw [getLsbD_patternWord, if_neg (by omega), if_neg (by omega), if_neg (by omega), if_neg (by omega),
    Nat.add_sub_cancel_left]

/-- The ones of two vectors side by side are the ones of both. -/
theorem onesIn_append {m n : Nat} (x : BitVec m) (y : BitVec n) : onesIn (x ++ y) = onesIn x + onesIn y := by
  have hrange : List.range (m + n) = List.range n ++ (List.range m).map (n + ·) := by rw [Nat.add_comm, List.range_add]
  rw [onesIn, hrange, List.countP_append, List.countP_map, Nat.add_comm]
  congr 1
  · refine List.countP_congr fun i _ => ?_
    rw [Function.comp_apply, BitVec.getLsbD_append, if_neg (by omega), Nat.add_sub_cancel_left]
  · refine List.countP_congr fun i hi => ?_
    rw [BitVec.getLsbD_append, if_pos (List.mem_range.mp hi)]

/-- The ones of a pattern word are those of its label field, its three field values and its parity bit. -/
theorem onesIn_patternWord :
    onesIn (patternWord field sdi data ssm p) = onesIn field + onesIn sdi + onesIn data + onesIn ssm + p.toNat := by
  change onesIn (field ++ rev sdi ++ rev data ++ rev ssm ++ BitVec.ofBool p) = _
  rw [onesIn_append_ofBool, onesIn_append, onesIn_append, onesIn_append, onesIn_rev, onesIn_rev, onesIn_rev,
    Nat.add_comm]

end Pattern

/-! ### Extraction -/

/-- A field of rule R63: its bits are the word's, from the field's top bit down. -/
theorem getLsbD_rev_extractLsb' {n lo len i : Nat} (w : BitVec n) (h : i < len) :
    (rev (w.extractLsb' lo len)).getLsbD i = w.getLsbD (lo + (len - 1 - i)) := by
  rw [getLsbD_rev_of_lt _ h, BitVec.getLsbD_extractLsb', decide_eq_true (show len - 1 - i < len by omega),
    Bool.true_and]

section Extraction

variable (w : BusWord) {i : Nat}

theorem getLsbD_extractFields_ssm (h : i < 2) : (extractFields w).ssm.getLsbD i = w.getLsbD (2 - i) := by
  rw [extractFields_eq, getLsbD_rev_extractLsb' w h, show 1 + (2 - 1 - i) = 2 - i by omega]

theorem getLsbD_extractFields_data (h : i < 19) : (extractFields w).data.getLsbD i = w.getLsbD (21 - i) := by
  rw [extractFields_eq, getLsbD_rev_extractLsb' w h, show 3 + (19 - 1 - i) = 21 - i by omega]

theorem getLsbD_extractFields_sdi (h : i < 2) : (extractFields w).sdi.getLsbD i = w.getLsbD (23 - i) := by
  rw [extractFields_eq, getLsbD_rev_extractLsb' w h, show 22 + (2 - 1 - i) = 23 - i by omega]

theorem getLsbD_extractFields_pack (h : i < 8) : (extractFields w).pack.getLsbD i = w.getLsbD (31 - i) := by
  rw [extractFields_eq, getLsbD_rev_extractLsb' w h, show 24 + (8 - 1 - i) = 31 - i by omega]

theorem extractFields_pack : (extractFields w).pack = rev (w.extractLsb' 24 8) := rfl

/-- A word is the pattern word of its label field, its un-reversed fields and its parity bit. -/
theorem patternWord_extractFields :
    patternWord (w.extractLsb' 24 8) (extractFields w).sdi (extractFields w).data (extractFields w).ssm (parityBit w) =
      w := by
  have h0 : w.extractLsb' 0 1 = BitVec.ofBool (parityBit w) := by
    ext i hi
    have h : i = 0 := by omega
    simp [h, parityBit]
  rw [patternWord, extractFields_eq, rev_rev, rev_rev, rev_rev, ← h0]
  change BitVec.extractLsb' 24 8 w ++ BitVec.extractLsb' 22 2 w ++ BitVec.extractLsb' 3 19 w ++
    BitVec.extractLsb' 1 2 w ++ BitVec.extractLsb' 0 1 w = w
  rw [BitVec.extractLsb'_append_extractLsb'_eq_extractLsb' (show 24 = 22 + 2 from rfl),
    BitVec.extractLsb'_append_extractLsb'_eq_extractLsb' (show 22 = 3 + 19 from rfl),
    BitVec.extractLsb'_append_extractLsb'_eq_extractLsb' (show 3 = 1 + 2 from rfl),
    BitVec.extractLsb'_append_extractLsb'_eq_extractLsb' (show 1 = 0 + 1 from rfl)]
  exact BitVec.extractLsb'_eq_self

end Extraction

/-- The fields of a pattern word are those it was made of. -/
theorem extractFields_patternWord (field : Pack) (sdi : Sdi) (data : Data) (ssm : Status) (p : Bool) :
    extractFields (patternWord field sdi data ssm p) = { pack := rev field, sdi := sdi, data := data, ssm := ssm } := by
  have hpack : (patternWord field sdi data ssm p).extractLsb' 24 8 = field :=
    Laws.patternWord_labelField field sdi data ssm p
  have hsdi : (patternWord field sdi data ssm p).extractLsb' 22 2 = rev sdi := by
    refine BitVec.eq_of_getLsbD_eq fun i hi => ?_
    rw [BitVec.getLsbD_extractLsb', getLsbD_patternWord_sdi _ _ _ _ _ hi, getLsbD_rev]
  have hdata : (patternWord field sdi data ssm p).extractLsb' 3 19 = rev data := by
    refine BitVec.eq_of_getLsbD_eq fun i hi => ?_
    rw [BitVec.getLsbD_extractLsb', getLsbD_patternWord_data _ _ _ _ _ hi, getLsbD_rev]
  have hssm : (patternWord field sdi data ssm p).extractLsb' 1 2 = rev ssm := by
    refine BitVec.eq_of_getLsbD_eq fun i hi => ?_
    rw [BitVec.getLsbD_extractLsb', getLsbD_patternWord_ssm _ _ _ _ _ hi, getLsbD_rev]
  rw [extractFields_eq, hpack, hsdi, hdata, hssm, rev_rev, rev_rev, rev_rev]

/-! ### Assembly -/

/-- A field value placed at word bit `lo`: its bits stand there and no other bit is set. -/
theorem getLsbD_setWidth_shiftLeft {n lo : Nat} (x : BitVec n) (h : lo + n ≤ 32) (i : Nat) :
    (x.setWidth 32 <<< lo).getLsbD i = if i < lo then false else if i < lo + n then x.getLsbD (i - lo) else false := by
  rw [BitVec.getLsbD_shiftLeft, BitVec.getLsbD_setWidth]
  split_ifs with hlo hn
  · simp [hlo]
  · simp [hlo, show i < 32 by omega, show i - lo < 32 by omega]
  · simp [BitVec.getLsbD_of_ge x (i - lo) (by omega)]

/-- Assembly before parity is the pattern word with the parity bit 0. -/
theorem assembleBody_eq_patternWord (f : WordFields) :
    assembleBody f = patternWord (rev f.pack) f.sdi f.data f.ssm false := by
  refine BitVec.eq_of_getLsbD_eq fun i (hi : i < 32) => ?_
  rw [assembleBody_eq, getLsbD_patternWord]
  simp only [BitVec.getLsbD_or]
  rw [getLsbD_setWidth_shiftLeft _ (by decide), getLsbD_setWidth_shiftLeft _ (by decide),
    getLsbD_setWidth_shiftLeft _ (by decide), getLsbD_setWidth_shiftLeft _ (by decide)]
  simp only [Config.labelW, Config.sdiW, Config.dataW, Config.ssmW]
  grind

/-- Setting the parity bit of a pattern word replaces the bit it was made with. -/
theorem withPar_patternWord (field : Pack) (sdi : Sdi) (data : Data) (ssm : Status) (p : Bool) :
    withPar (patternWord field sdi data ssm p) =
      patternWord field sdi data ssm (par (patternWord field sdi data ssm p)) := by
  refine BitVec.eq_of_getLsbD_eq fun i _ => ?_
  rw [getLsbD_withPar]
  split
  case isTrue hi => rw [hi, getLsbD_patternWord_parity]
  case isFalse hi =>
    rw [getLsbD_patternWord, getLsbD_patternWord, if_neg (by omega), if_neg (show ¬ i < 1 by omega)]

/-- An assembled word is the pattern word of its fields and its parity. -/
theorem assemble_eq_patternWord (f : WordFields) :
    assemble f = patternWord (rev f.pack) f.sdi f.data f.ssm (par (assembleBody f)) := by
  rw [assemble, assembleBody_eq_patternWord, withPar_patternWord]

section Assembly

variable (f : WordFields)

theorem extractFields_assemble : extractFields (assemble f) = f := by
  rw [assemble_eq_patternWord, extractFields_patternWord, rev_rev]

theorem odd_onesIn_assemble : onesIn (assemble f) % 2 = 1 := odd_onesIn_withPar (assembleBody f)

theorem assemble_labelField : (assemble f).extractLsb' 24 8 = rev f.pack := by
  rw [assemble_eq_patternWord]
  exact Laws.patternWord_labelField _ _ _ _ _

variable {i : Nat}

theorem getLsbD_assemble_ssm (h : i < 2) : (assemble f).getLsbD (1 + i) = f.ssm.getLsbD (1 - i) := by
  rw [assemble_eq_patternWord, getLsbD_patternWord_ssm _ _ _ _ _ h]

theorem getLsbD_assemble_data (h : i < 19) : (assemble f).getLsbD (3 + i) = f.data.getLsbD (18 - i) := by
  rw [assemble_eq_patternWord, getLsbD_patternWord_data _ _ _ _ _ h]

theorem getLsbD_assemble_sdi (h : i < 2) : (assemble f).getLsbD (22 + i) = f.sdi.getLsbD (1 - i) := by
  rw [assemble_eq_patternWord, getLsbD_patternWord_sdi _ _ _ _ _ h]

theorem getLsbD_assemble_pack (h : i < 8) : (assemble f).getLsbD (24 + i) = f.pack.getLsbD (7 - i) := by
  rw [assemble_eq_patternWord, getLsbD_patternWord_label]
  exact getLsbD_rev_of_lt f.pack h

end Assembly

/-- The parity bit is the lowest bit of a pattern word and touches no other. -/
theorem patternWord_body (field : Pack) (sdi : Sdi) (data : Data) (ssm : Status) (p : Bool) :
    (patternWord field sdi data ssm p).extractLsb' 1 31 = field ++ rev sdi ++ rev data ++ rev ssm :=
  BitVec.extractLsb'_append_eq_left

/-- Assembling what was extracted from a word changes no bit but its parity bit. -/
theorem assemble_extractFields_body (w : BusWord) :
    (assemble (extractFields w)).extractLsb' 1 31 = w.extractLsb' 1 31 := by
  rw [assemble_eq_patternWord, extractFields_pack, rev_rev, patternWord_body,
    ← patternWord_body _ _ _ _ (parityBit w), patternWord_extractFields]

/-- Settles O2: an assembled word and a word itself are the pattern words of the same fields. -/
theorem assemblyAndExtractionAreInverse : Obligations.AssemblyAndExtractionAreInverse :=
  ⟨fun f => ⟨extractFields_assemble f, odd_onesIn_assemble f, fun _ => getLsbD_assemble_ssm f,
    fun _ => getLsbD_assemble_data f, fun _ => getLsbD_assemble_sdi f, fun _ => getLsbD_assemble_pack f⟩,
   fun w => ⟨assemble_extractFields_body w, rfl, fun _ => getLsbD_extractFields_ssm w,
    fun _ => getLsbD_extractFields_data w, fun _ => getLsbD_extractFields_sdi w,
    fun _ => getLsbD_extractFields_pack w⟩⟩

end Sys2Proof
end

section
/-!
PROOFS. The decoder and the encoder (30_encoding.md sections 4 and 5): the bits of an input, the operation select, the
Bus Word rows, and the round trips.
-/

namespace Sys2Proof

open Machine

/-! ### The bits of an input -/

/-- The bits of a command, at the widths of its fields. -/
theorem extractLsb'_commandBits (c : Command) (lo len : Nat) :
    (commandBits c).extractLsb' lo len =
      (c.wsel ++ c.data ++ c.ssm ++ c.word ++ c.mode ++ c.val ++ BitVec.ofBool c.pres ++ c.sdi ++ c.lab ++
        c.op).extractLsb' lo len := rfl

/-- The fields of a command stand side by side in its bits, each where it is read. -/
theorem commandOfBits_commandBits (c : Command) : commandOfBits (commandBits c) = c := by
  have hpres : (commandBits c).getLsbD 18 = ((commandBits c).extractLsb' 18 1).getLsbD 0 := by
    rw [BitVec.getLsbD_extractLsb']; rfl
  simp only [commandOfBits, hpres, extractLsb'_commandBits]
  simp (disch := decide) only [BitVec.extractLsb'_append_eq_of_le, BitVec.extractLsb'_append_eq_of_add_le]
  simp

theorem inputOfBits_bitsOfInput (p : Input) : inputOfBits (bitsOfInput p).1 (bitsOfInput p).2 = p := by
  cases p with
  | command c =>
    have hfits : (commandBits c).toNat < 2 ^ 112 := Nat.lt_trans (commandBits c).isLt (by decide)
    change Input.command (commandOfBits (BitVec.ofNat 108 ((commandBits c).toNat % 2 ^ 112))) = _
    rw [Nat.mod_eq_of_lt hfits, BitVec.ofNat_toNat, BitVec.setWidth_eq, commandOfBits_commandBits]
  | busWord w =>
    change Input.busWord (BitVec.ofNat 32 w.toNat) = _
    rw [BitVec.ofNat_toNat]
    exact congrArg _ (BitVec.setWidth_eq w)

/-! ### The operation select (rule R76): one equation per code; 0x2 is `decode_pchk` -/

section Select

variable {c : Command}

theorem decode_rev (h : c.op = 0x0) : decode (.command c) = .ok (.rev (decodeWsel c.wsel) c.data) := by
  rw [decode, decodeCommand, h]; rfl

theorem decode_pgen (h : c.op = 0x1) : decode (.command c) = .ok (.pgen c.word) := by
  rw [decode, decodeCommand, h]; rfl

theorem decode_l1enc (h : c.op = 0x3) : decode (.command c) = .ok (.l1enc (decodeValue c) c.mode) := by
  rw [decode, decodeCommand, h]; rfl

theorem decode_l1dec (h : c.op = 0x4) : decode (.command c) = .ok (.l1dec c.ssm c.data) := by
  rw [decode, decodeCommand, h]; rfl

theorem decode_l2enc (h : c.op = 0x5) : decode (.command c) = .ok (.l2enc (decodeValue c)) := by
  rw [decode, decodeCommand, h]; rfl

theorem decode_l2dec (h : c.op = 0x6) : decode (.command c) = .ok (.l2dec c.ssm c.data) := by
  rw [decode, decodeCommand, h]; rfl

theorem decode_l3enc (h : c.op = 0x7) : decode (.command c) = .ok (.l3enc (decodeValue c)) := by
  rw [decode, decodeCommand, h]; rfl

theorem decode_l3dec (h : c.op = 0x8) : decode (.command c) = .ok (.l3dec c.ssm c.data) := by
  rw [decode, decodeCommand, h]; rfl

theorem decode_l4enc (h : c.op = 0x9) : decode (.command c) = .ok (.l4enc (decodeValue c)) := by
  rw [decode, decodeCommand, h]; rfl

theorem decode_l4dec (h : c.op = 0xA) : decode (.command c) = .ok (.l4dec c.ssm c.data) := by
  rw [decode, decodeCommand, h]; rfl

theorem decode_l5enc (h : c.op = 0xB) : decode (.command c) = .ok (.l5enc (decodeValue c)) := by
  rw [decode, decodeCommand, h]; rfl

theorem decode_l5dec (h : c.op = 0xC) : decode (.command c) = .ok (.l5dec c.ssm c.data) := by
  rw [decode, decodeCommand, h]; rfl

theorem decode_wenc (h : c.op = 0xD) : decode (.command c) = .ok (.wenc c.lab c.sdi (decodeValue c) c.mode) := by
  rw [decode, decodeCommand, h]; rfl

theorem decode_wdec (h : c.op = 0xE) : decode (.command c) = .ok (.wdec c.word) := by
  rw [decode, decodeCommand, h]; rfl

theorem decode_errw (h : c.op = 0xF) : decode (.command c) = .ok .errw := by
  rw [decode, decodeCommand, h]; rfl

theorem decodeWsel_encodeWsel (sel : RevSel) : decodeWsel (encodeWsel sel) = sel := by
  cases sel <;> rfl

/-- REV with a written-out width select. -/
theorem decode_rev_of_wsel {sel : RevSel} (h : c.op = 0x0) (hsel : c.wsel = encodeWsel sel) :
    decode (.command c) = .ok (.rev sel c.data) := by
  rw [decode_rev h, hsel, decodeWsel_encodeWsel]

end Select

/-! ### The physical value of a command -/

theorem decodeValue_absent {c : Command} (h : c.pres = false) : decodeValue c = none := by
  rw [decodeValue, h]; rfl

theorem decodeValue_present {c : Command} (h : c.pres = true) : decodeValue c = some c.val.toInt := by
  rw [decodeValue, h]; rfl

/-- A value the port carries fits it. -/
theorem presentable_decodeValue (c : Command) : presentable (decodeValue c) = true := by
  cases h : c.pres with
  | false => rw [decodeValue_absent h]; rfl
  | true =>
    rw [decodeValue_present h, presentable, fitsVal]
    exact decide_eq_true ⟨Val.le_toInt c.val, Val.toInt_le c.val⟩

theorem commandWithValue_op (op : Op) (val : Option Int) : (commandWithValue op val).op = op := by
  cases val <;> rfl

/-- A value that fits the port comes back from it. -/
theorem decodeValue_commandWithValue (op : Op) {val : Option Int} (h : presentable val = true) :
    decodeValue (commandWithValue op val) = val := by
  cases val with
  | none => rfl
  | some v =>
    obtain ⟨hlo, hhi⟩ := of_decide_eq_true (show fitsVal v = true from h)
    change some (BitVec.ofInt 32 v).toInt = some v
    rw [BitVec.toInt_ofInt, Int.bmod_eq_of_le (by omega) (by omega)]

/-! ### The Bus Word rows (rule R77) -/

theorem labelField_injective {c c' : Codec} (h : labelField c = labelField c') : c = c' := by
  revert c c'
  rintro (_ | _) (_ | _) <;> decide

/-- The label field of a codec selects its row, with the un-reversed fields of the word. -/
theorem decode_busWord_of_labelField {w : BusWord} {c : Codec} (h : w.extractLsb' 24 8 = labelField c) :
    decode (.busWord w) = .ok (rowOp c (extractFields w).sdi (extractFields w).data (extractFields w).ssm
      (parityBit w)) := by
  have hfield : w.extractLsb' Config.labelLo Config.labelW = labelField c := h
  simp only [decode, decodeBusWord, hfield]
  cases c <;> rfl

/-- A label field of no codec selects no row. -/
theorem decode_busWord_of_no_labelField {w : BusWord} (h : ∀ c : Codec, w.extractLsb' 24 8 ≠ labelField c) :
    decode (.busWord w) = .error (.noCodec (w.extractLsb' 24 8)) := by
  simp only [decode, decodeBusWord]
  split
  case h_1 heq => exact absurd (BitVec.eq_of_toNat_eq heq) (h .alt)
  case h_2 heq => exact absurd (BitVec.eq_of_toNat_eq heq) (h .rate)
  case h_3 heq => exact absurd (BitVec.eq_of_toNat_eq heq) (h .angle)
  case h_4 heq => exact absurd (BitVec.eq_of_toNat_eq heq) (h .power)
  case h_5 heq => exact absurd (BitVec.eq_of_toNat_eq heq) (h .flag)
  case h_6 => rfl

/-- A word that selects a row has the label field of the row's codec. -/
theorem labelField_of_decode_busWord {w : BusWord} {i : Instr} (h : decode (.busWord w) = .ok i) :
    ∃ c : Codec, w.extractLsb' 24 8 = labelField c ∧
      i = rowOp c (extractFields w).sdi (extractFields w).data (extractFields w).ssm (parityBit w) := by
  by_cases hrow : ∃ c : Codec, w.extractLsb' 24 8 = labelField c
  · obtain ⟨c, hc⟩ := hrow
    rw [decode_busWord_of_labelField hc] at h
    exact ⟨c, hc, (Except.ok.inj h).symm⟩
  · rw [decode_busWord_of_no_labelField (not_exists.mp hrow)] at h
    exact nomatch h

theorem encode_rowOp (c : Codec) (sdi : Sdi) (data : Data) (ssm : Status) (p : Bool) :
    encode (rowOp c sdi data ssm p) = .busWord (patternWord (labelField c) sdi data ssm p) := by
  cases c <;> rfl

/-- The pattern word of a codec's label field decodes to the codec's row. -/
theorem decode_patternWord (c : Codec) (sdi : Sdi) (data : Data) (ssm : Status) (p : Bool) :
    decode (.busWord (patternWord (labelField c) sdi data ssm p)) = .ok (rowOp c sdi data ssm p) := by
  rw [decode_busWord_of_labelField (Laws.patternWord_labelField (labelField c) sdi data ssm p),
    extractFields_patternWord, parityBit, getLsbD_patternWord_parity]

theorem decode_encode_rowOp (c : Codec) (sdi : Sdi) (data : Data) (ssm : Status) (p : Bool) :
    decode (encode (rowOp c sdi data ssm p)) = .ok (rowOp c sdi data ssm p) := by
  rw [encode_rowOp, decode_patternWord]

/-! ### The round trips -/

/-- The decoder gives back every well-formed instruction that was encoded. -/
theorem decode_encode (i : Instr) (h : i.wellFormed = true) : decode (encode i) = .ok i := by
  cases i with
  | rev sel x => exact decode_rev_of_wsel rfl rfl
  | pgen w => exact decode_pgen rfl
  | pchk w => exact decode_pchk rfl
  | l1enc val mode =>
    exact (decode_l1enc (c := { commandWithValue 0x3 val with mode := mode }) (commandWithValue_op 0x3 val)).trans
      (congrArg (Except.ok <| Instr.l1enc · mode) (decodeValue_commandWithValue 0x3 h))
  | l1dec ssm data => exact decode_l1dec rfl
  | l2enc val => rw [encode, decode_l2enc (commandWithValue_op 0x5 val), decodeValue_commandWithValue 0x5 h]
  | l2dec ssm data => exact decode_l2dec rfl
  | l3enc val => rw [encode, decode_l3enc (commandWithValue_op 0x7 val), decodeValue_commandWithValue 0x7 h]
  | l3dec ssm data => exact decode_l3dec rfl
  | l4enc val => rw [encode, decode_l4enc (commandWithValue_op 0x9 val), decodeValue_commandWithValue 0x9 h]
  | l4dec ssm data => exact decode_l4dec rfl
  | l5enc val => rw [encode, decode_l5enc (commandWithValue_op 0xB val), decodeValue_commandWithValue 0xB h]
  | l5dec ssm data => exact decode_l5dec rfl
  | wenc lab sdi val mode =>
    exact (decode_wenc (c := { commandWithValue 0xD val with lab := lab, sdi := sdi, mode := mode })
      (commandWithValue_op 0xD val)).trans
      (congrArg (Except.ok <| Instr.wenc lab sdi · mode) (decodeValue_commandWithValue 0xD h))
  | wdec w => exact decode_wdec rfl
  | errw => exact decode_errw rfl
  | wordL1Alt sdi data ssm p => exact decode_encode_rowOp .alt sdi data ssm p
  | wordL2Rate sdi data ssm p => exact decode_encode_rowOp .rate sdi data ssm p
  | wordL3Angle sdi data ssm p => exact decode_encode_rowOp .angle sdi data ssm p
  | wordL4Power sdi data ssm p => exact decode_encode_rowOp .power sdi data ssm p
  | wordL5Flag sdi data ssm p => exact decode_encode_rowOp .flag sdi data ssm p

/-- Settles O1: the bits of an input give the input back, and the decoder the instruction it encodes. -/
theorem decodeEncodeRoundTrip : Obligations.DecodeEncodeRoundTrip := by
  intro i hi
  rw [encodeTableWord, decodeTableWord, inputOfBits_bitsOfInput, decode_encode i hi]

/-- Settles O3: the row has the word's own label field, fields and parity bit, so it encodes to the word. -/
theorem decodedBusWordReencodes : Obligations.DecodedBusWordReencodes := by
  intro w i h
  obtain ⟨c, hfield, rfl⟩ := labelField_of_decode_busWord h
  rw [encode_rowOp, ← hfield, patternWord_extractFields]

/-- Settles O4: by whether the label field is that of a codec. -/
theorem labelFieldSelectsTheRow : Obligations.LabelFieldSelectsTheRow :=
  fun w => ⟨fun _ hc => ⟨_, _, _, decode_busWord_of_labelField hc, fun _ => getLsbD_extractFields_sdi w,
    fun _ => getLsbD_extractFields_data w, fun _ => getLsbD_extractFields_ssm w⟩, decode_busWord_of_no_labelField⟩

theorem wellFormed_rowOp (c : Codec) (sdi : Sdi) (data : Data) (ssm : Status) (p : Bool) :
    (rowOp c sdi data ssm p).wellFormed = true := by
  cases c <;> rfl

/-- Of a command the value alone could be ill-formed, and it comes from the port. -/
theorem wellFormed_decodeCommand (c : Command) : (decodeCommand c).wellFormed = true := by
  rw [decodeCommand]
  split <;> simp only [Instr.wellFormed, presentable_decodeValue]

/-- Settles O5: a command's value comes from the port, and a row has no value. -/
theorem decodedInstructionIsWellFormed : Obligations.DecodedInstructionIsWellFormed := by
  intro p i h
  cases p with
  | command c => exact Except.ok.inj h ▸ wellFormed_decodeCommand c
  | busWord w =>
    obtain ⟨c, -, rfl⟩ := labelField_of_decode_busWord h
    exact wellFormed_rowOp c _ _ _ _

/-- Settles O6: the decoder run on the six words. -/
theorem writtenWordsDecode : Obligations.WrittenWordsDecode := by
  unfold Obligations.WrittenWordsDecode
  decide

/-- Settles O7: the equations of the operation select. -/
theorem operationSelectChoosesTheInstruction : Obligations.OperationSelectChoosesTheInstruction :=
  fun c => ⟨decodeValue c, decodeValue_absent, decodeValue_present,
    decode_rev_of_wsel (sel := .w2), decode_rev_of_wsel (sel := .w8), decode_rev_of_wsel (sel := .w19),
    decode_rev_of_wsel (sel := .reserved), decode_pgen, decode_pchk, decode_l1enc, decode_l1dec, decode_l2enc,
    decode_l2dec, decode_l3enc, decode_l3dec, decode_l4enc, decode_l4dec, decode_l5enc, decode_l5dec, decode_wenc,
    decode_wdec, decode_errw⟩

end Sys2Proof
end

section
/-!
PROOFS. The step (20_memory.md section 3, 60_exceptions.md section 1): every input has one result, the same in every
state, and a step on it records that result and nothing else. What a run does follows from that.
-/

namespace Sys2Proof.Machine

/-! ### What an instruction, an input and a step answer -/

/-- Every instruction completes with one result, the same in every state. -/
theorem exec_completes (i : Instr) : ∃ r : Result, ∀ s : State, exec i s = complete r s := by
  cases i <;> exact ⟨_, fun _ => rfl⟩

/-- The state after the transaction of the oldest issued input `p`, answered by `r`. -/
def State.answered (s : State) (p : Input) (rest : List Input) (r : Result) : State :=
  { issued := rest, taken := p :: s.taken, results := r :: s.results }

theorem step_of_issued_nil {s : State} (h : s.issued = []) : step s = .next s := by
  rw [step, h]; rfl

section Issued

variable {s : State} {p : Input} {rest : List Input} {i : Instr} {r : Result}

theorem step_of_decode_ok (hs : s.issued = p :: rest) (hp : decode p = .ok i) : step s = exec i (s.take p rest) := by
  simp only [step, hs, hp]

theorem step_of_completes (hs : s.issued = p :: rest) (hp : decode p = .ok i)
    (hi : ∀ t : State, exec i t = complete r t) : step s = .next (s.answered p rest r) := by
  rw [step_of_decode_ok hs hp, hi]; rfl

theorem step_of_decode_error {e : DecodeError} (hs : s.issued = p :: rest) (hp : decode p = .error e) :
    step s = .next (s.answered p rest invalidResult) := by
  simp only [step, hs, hp, answerRejected_eq]; rfl

end Issued

theorem firstAnswer_of_step {p : Input} {r : Result}
    (h : ∀ (s : State) (rest : List Input), s.issued = p :: rest → step s = .next (s.answered p rest r)) :
    firstAnswer p = some r := by
  rw [firstAnswer, h _ [] rfl]; rfl

/-- Each input has one result, its answer as the first transaction after reset, and every step on the input records
that result and nothing else. -/
theorem step_records_firstAnswer (p : Input) :
    ∃ r : Result, firstAnswer p = some r ∧
      ∀ (s : State) (rest : List Input), s.issued = p :: rest → step s = .next (s.answered p rest r) := by
  have hstep : ∃ r : Result, ∀ (s : State) (rest : List Input), s.issued = p :: rest →
      step s = .next (s.answered p rest r) := by
    cases hp : decode p with
    | ok i =>
      obtain ⟨r, hi⟩ := exec_completes i
      exact ⟨r, fun s rest hs => step_of_completes hs hp hi⟩
    | error e => exact ⟨invalidResult, fun s rest hs => step_of_decode_error hs hp⟩
  obtain ⟨r, hr⟩ := hstep
  exact ⟨r, firstAnswer_of_step hr, hr⟩

/-- A step either has nothing to do, or takes the oldest issued input and records its first answer. -/
theorem step_cases {s t : State} (h : step s = .next t) :
    (s.issued = [] ∧ t = s) ∨
    ∃ p rest r, s.issued = p :: rest ∧ firstAnswer p = some r ∧ t = s.answered p rest r := by
  cases hs : s.issued with
  | nil =>
    rw [step_of_issued_nil hs] at h
    exact .inl ⟨rfl, (Host.Outcome.next.inj h).symm⟩
  | cons p rest =>
    obtain ⟨r, hr, hstep⟩ := step_records_firstAnswer p
    rw [hstep s rest hs] at h
    exact .inr ⟨p, rest, r, rfl, hr, (Host.Outcome.next.inj h).symm⟩

/-! ### The obligations on single steps -/

/-- Settles O8: the step's own equation for an input that decodes. -/
theorem stepRunsTheDecodedInstruction : Obligations.StepRunsTheDecodedInstruction :=
  fun _ _ _ _ => step_of_decode_ok

/-- Settles O9: the step is idle. -/
theorem stepWithNothingIssuedStays : Obligations.StepWithNothingIssuedStays :=
  fun _ => step_of_issued_nil

/-- Settles O11: an input is answered by its one result, and without an input the state stays. -/
theorem everyStepAnswersANextState : Obligations.EveryStepAnswersANextState := by
  have hissued : ∀ (s : State) (p : Input) (rest : List Input), s.issued = p :: rest →
      ∃ r, step s = .next (s.answered p rest r) := fun s p rest hs => by
    obtain ⟨r, -, hstep⟩ := step_records_firstAnswer p
    exact ⟨r, hstep s rest hs⟩
  refine ⟨fun s => ?_, hissued⟩
  cases hs : s.issued with
  | nil => exact ⟨s, step_of_issued_nil hs⟩
  | cons p rest =>
    obtain ⟨r, hstep⟩ := hissued s p rest hs
    exact ⟨_, hstep⟩

/-- Settles O13: the lists after reset are empty. -/
theorem resetHasNoTransactionAndNoResult : Obligations.ResetHasNoTransactionAndNoResult :=
  ⟨rfl, ⟨rfl, rfl⟩, rfl, rfl, rfl⟩

/-- Settles O15: both steps record the one result of the input. -/
theorem equalCommandsGiveEqualResults : Obligations.EqualCommandsGiveEqualResults := by
  intro s s' p rest rest' hs hs'
  obtain ⟨r, -, hstep⟩ := step_records_firstAnswer p
  exact ⟨r, hstep s rest hs, hstep s' rest' hs'⟩

/-! ### Runs -/

/-- Answering the oldest issued input moves it to what was taken: the inputs of the run and their order stay. -/
theorem answered_taken_issued {s : State} {p : Input} {rest : List Input} (r : Result) (hs : s.issued = p :: rest) :
    (s.answered p rest r).taken.reverse ++ (s.answered p rest r).issued = s.taken.reverse ++ s.issued := by
  simp [State.answered, hs]

/-- Recording the first answer of the input that is taken keeps the run faithful. -/
theorem faithful_answered {s : State} {p : Input} {r : Result} (rest : List Input) (hs : s.Faithful)
    (hr : firstAnswer p = some r) : (s.answered p rest r).Faithful := by
  simpa [State.Faithful, State.answered, hr] using hs

/-- Settles O12: by what a step can do; taking the oldest input keeps the inputs and their order, and what is recorded
is the input's own answer. -/
theorem stepKeepsTheRunFaithful : Obligations.StepKeepsTheRunFaithful := by
  rintro s t inputs ⟨hinputs, hfaithful⟩ hstep
  obtain ⟨-, rfl⟩ | ⟨p, rest, r, hs, hr, rfl⟩ := step_cases hstep
  · exact ⟨hinputs, hfaithful⟩
  · exact ⟨(answered_taken_issued r hs).trans hinputs, faithful_answered rest hfaithful hr⟩

/-- A run of one step and then more. -/
theorem core_run_succ {s t : State} (k : Nat) (h : step s = .next t) : core.run (k + 1) s = core.run k t := by
  have hcore : core.step s = .next t := h
  simp only [Host.Core.run, hcore]

/-- A run as long as what is issued, for a state whose issued inputs are `inputs`. -/
theorem run_answers_in_order (inputs : List Input) (s : State) (hs : s.issued = inputs) :
    ∃ (t : State) (rs : List Result), core.run inputs.length s = .next t ∧ t.issued = [] ∧
      t.taken = inputs.reverse ++ s.taken ∧ rs.map some = inputs.map firstAnswer ∧
      t.results = rs.reverse ++ s.results := by
  induction inputs generalizing s with
  | nil => exact ⟨s, [], rfl, hs, rfl, rfl, rfl⟩
  | cons p rest ih =>
    obtain ⟨r, hr, hstep⟩ := step_records_firstAnswer p
    obtain ⟨t, rs, hrun, hissued, htaken, hrs, hresults⟩ := ih (s.answered p rest r) rfl
    refine ⟨t, r :: rs, ?_, hissued, ?_, ?_, ?_⟩
    · rw [List.length_cons, core_run_succ _ (hstep s rest hs), hrun]
    · simpa [State.answered] using htaken
    · rw [List.map_cons, List.map_cons, hrs, hr]
    · simpa [State.answered] using hresults

/-- Settles O14: by induction on the inputs issued. -/
theorem runAnswersInIssueOrder : Obligations.RunAnswersInIssueOrder := by
  intro s
  obtain ⟨t, rs, hrun, hissued, htaken, hrs, hresults⟩ := run_answers_in_order s.issued s rfl
  exact ⟨t, hrun, hissued, htaken, rs, hrs, hresults⟩

end Sys2Proof.Machine
end

section
/-!
PROOFS. Label 1 (41_label_codecs.md section 1): the ladder is division by 625 units, its inverse reading multiplication,
and what L1ENC and L1DEC answer.
-/

namespace Sys2Proof.Machine

/-! ### The ladder -/

/-- Step `15 − n` of the ladder is 625 times the weight of code bit `n`. -/
theorem stepU_eq {n : Nat} (h : n < 16) : Config.stepU (Config.ladderBits - 1 - n) = 625 * 2 ^ n := by
  rw [Config.stepU]
  congr 2
  simp only [Config.ladderBits]
  omega

/-- With `n` steps left and a remainder below the step before them, the greedy ladder divides the remainder by 625. -/
theorem ladderFrom_eq_div (n : Nat) (hn : n ≤ 16) (r : Nat) (hr : r < 625 * 2 ^ n) : ladderFrom n r = r / 625 := by
  induction n generalizing r with
  | zero => rw [ladderFrom]; omega
  | succ n ih =>
    have hstep := stepU_eq (show n < 16 by omega)
    rw [Nat.pow_succ] at hr
    rw [ladderFrom, hstep, show Config.ladderStop = 512 from rfl]
    split_ifs with hstop hfits
    · omega
    · rw [ih (by omega) _ (by omega)]
      omega
    · exact ih (by omega) r (by omega)

/-- The ladder code of a magnitude in range is the magnitude divided by 625 units (rule R121). -/
theorem toNat_ladderEnc {m : Nat} (h : m ≤ 20480000) : (ladderEnc m).toNat = m / 625 := by
  have hlt : m / 625 < 2 ^ 16 := by omega
  change ladderFrom 16 m % 2 ^ 16 = m / 625
  rw [ladderFrom_eq_div 16 (Nat.le_refl _) m (by omega), Nat.mod_eq_of_lt hlt]

/-- Settles O24: bound and order from the division. -/
theorem ladderIsTruncatingDivision : Obligations.LadderIsTruncatingDivision := by
  refine ⟨fun m hm => ⟨toNat_ladderEnc hm, ?_⟩, fun m n hmn hn => ?_⟩
  · rw [toNat_ladderEnc hm]
    omega
  · rw [toNat_ladderEnc (Nat.le_trans hmn hn), toNat_ladderEnc hn]
    exact Nat.div_le_div_right hmn

/-- The steps of the set bits, step `k` at bit `15 − k`. -/
theorem ladderDec_eq_sum (code : BitVec 16) :
    ladderDec code = ((List.range 16).map fun k => (code.getLsbD (15 - k)).toNat * (625 * 2 ^ (15 - k))).sum := by
  rw [ladderDec]
  congr 1
  refine List.map_congr_left fun k _ => ?_
  change (if code.getLsbD (15 - k) then Config.stepU k else 0) = _
  cases code.getLsbD (15 - k) with
  | false => simp
  | true => simp [Config.stepU]

/-- Added up from the lowest bit, the steps are 625 times the code's bits at their weights (rule R122). -/
theorem ladderDec_eq_mul (code : BitVec 16) : ladderDec code = 625 * code.toNat := by
  have hterms : ((List.range 16).map fun k => (code.getLsbD (15 - k)).toNat * (625 * 2 ^ (15 - k))) =
      ((List.range 16).map fun i => 625 * ((code.getLsbD i).toNat * 2 ^ i)).reverse := by
    rw [← List.map_reverse, ← map_sub_range, List.map_map]
    exact List.map_congr_left fun k _ => Nat.mul_left_comm _ _ _
  rw [ladderDec_eq_sum, hterms, List.sum_reverse, List.sum_map_mul_left, sum_getLsbD_range]

theorem ladderDec_le (code : BitVec 16) : ladderDec code ≤ 40959375 := by
  have hlt : code.toNat < 65536 := code.isLt
  rw [ladderDec_eq_mul]
  omega

/-- Settles O25: the largest code has 65535 units. -/
theorem ladderDecodesToTheSumOfSteps : Obligations.LadderDecodesToTheSumOfSteps := by
  intro code
  have hle := ladderDec_le code
  exact ⟨ladderDec_eq_sum code, ladderDec_eq_mul code, hle, toInt_valPort _ (by omega), toInt_valPort _ (by omega)⟩

/-- Settles O26: 512 units are a foot, and 625 · 2^15 units are 40000 ft. -/
theorem ladderStandsForFeet : Obligations.LadderStandsForFeet := by
  have hunit : Config.altUnit = 1 / 512 := by norm_num [Config.altUnit, Config.altFracBits]
  refine ⟨fun k hk => ?_, ?_, fun code => ?_⟩
  · have hpow : (2 : ℚ) ^ (15 - k) * 2 ^ k = 2 ^ 15 := by rw [← pow_add, Nat.sub_add_cancel (by omega)]
    have hstep : (Config.stepU k : ℚ) = 625 * 2 ^ (15 - k) := by simp [Config.stepU]
    rw [hstep, hunit, eq_div_iff (by positivity)]
    linear_combination (625 / 512) * hpow
  · norm_num [Config.altMaxU, Config.altMaxFt, Config.altFracBits, hunit]
  · rw [ladderDec_eq_mul, hunit]
    push_cast
    ring

/-! ### L1ENC -/

theorem modeRecognized_eq (mode : ModeCode) : Config.modeRecognized mode = decide (mode ≠ 3) := by
  revert mode
  decide

theorem modeRecognized_of_ne {mode : ModeCode} (h : mode ≠ 3) : Config.modeRecognized mode = true :=
  (modeRecognized_eq mode).trans (decide_eq_true h)

theorem l1enc_unrecognized (alt : Option Int) : l1enc alt 3 = { ssm := 0, data := 0 } := rfl

section L1enc

variable {mode : ModeCode} {v : Int}

theorem l1enc_absent (h : mode ≠ 3) : l1enc none mode = { ssm := 1, data := mode.setWidth 19 } := by
  simp [l1enc, modeRecognized_of_ne h]

theorem l1enc_outOfRange (h : mode ≠ 3) (hv : 20480000 < v.natAbs) : l1enc (some v) mode = { ssm := 0, data := 0 } := by
  simp [l1enc, modeRecognized_of_ne h, magnitude, show Config.altMaxU = 20480000 from rfl, hv]

theorem l1enc_inRange (h : mode ≠ 3) (hv : v.natAbs ≤ 20480000) :
    ∃ d : Data, l1enc (some v) mode = { ssm := 3, data := d } ∧
      d.toNat = (if v < 0 then 2 ^ 18 else 0) + 4 * (v.natAbs / 625) + mode.toNat := by
  refine ⟨altBlock (decide (v < 0)) (ladderEnc v.natAbs) ++ mode, ?_, ?_⟩
  · simp [l1enc, modeRecognized_of_ne h, magnitude, show Config.altMaxU = 20480000 from rfl, Nat.not_lt.mpr hv]
  · rw [altBlock_append_toNat, toNat_ladderEnc hv, Nat.mul_comm 4]
    by_cases hneg : v < 0
    · simp [hneg]
    · simp [hneg]

end L1enc

/-! ### L1DEC -/

/-- The altitude that data of label 1 stands for: the sign bit and 625 units for each unit of the ladder (rule R125). -/
def altOf (data : Data) : Int := (if 2 ^ 18 ≤ data.toNat then -1 else 1) * (625 * (data.toNat / 4 % 2 ^ 16))

theorem natAbs_altOf_le (data : Data) : (altOf data).natAbs ≤ 40959375 := by
  rw [altOf]
  split <;> omega

/-- The mode bits of label 1's data are its two lowest. -/
theorem extractLsb'_mode (data : Data) : data.extractLsb' 0 2 = BitVec.ofNat 2 data.toNat := by
  refine BitVec.eq_of_toNat_eq ?_
  rw [BitVec.extractLsb'_toNat, BitVec.toNat_ofNat]
  rfl

theorem modeRecognized_data (data : Data) :
    Config.modeRecognized (data.extractLsb' 0 2) = decide (data.toNat % 4 ≠ 3) := by
  rw [modeRecognized_eq, extractLsb'_mode]
  refine decide_eq_decide.mpr (not_congr ?_)
  rw [← BitVec.toNat_inj, BitVec.toNat_ofNat]
  rfl

section L1dec

variable {ssm : Status} {data : Data}

theorem l1dec_none (h : ssm = 0 ∨ ssm = 2) : l1dec ssm data = { kind := .none } := by
  rw [l1dec_eq, if_pos h]

theorem l1dec_unrecognized (h : data.toNat % 4 = 3) : l1dec ssm data = { kind := .none } := by
  rw [l1dec_eq, modeRecognized_data, decide_eq_false (not_not.mpr h), if_pos rfl, ite_self]

theorem l1dec_absent (h : data.toNat % 4 ≠ 3) :
    l1dec 1 data = { kind := .absent, mode := BitVec.ofNat 2 data.toNat } := by
  rw [l1dec_eq, modeRecognized_data, decide_eq_true h, extractLsb'_mode]
  rfl

/-- The altitude block read as the model reads it is `altOf`. -/
theorem signed_ladderDec_eq_altOf (data : Data) :
    (if data.getLsbD 18 then -(ladderDec (data.extractLsb' 2 16) : Int)
        else (ladderDec (data.extractLsb' 2 16) : Int)) =
      altOf data := by
  have hlt := Data.toNat_lt data
  have hcode : (data.extractLsb' 2 16).toNat = data.toNat / 4 % 2 ^ 16 := by
    rw [BitVec.extractLsb'_toNat, Nat.shiftRight_eq_div_pow]
  have hsign : data.getLsbD 18 = decide (2 ^ 18 ≤ data.toNat) := by
    rw [← BitVec.testBit_toNat, Nat.testBit_eq_decide_div_mod_eq]
    exact decide_eq_decide.mpr (by omega)
  rw [ladderDec_eq_mul, hcode, hsign, altOf]
  by_cases hneg : 2 ^ 18 ≤ data.toNat
  · rw [if_pos (decide_eq_true hneg), if_pos hneg]
    push_cast
    ring
  · rw [if_neg (by simpa using hneg), if_neg hneg]
    push_cast
    ring

theorem l1dec_present (h : data.toNat % 4 ≠ 3) :
    l1dec 3 data = { kind := .present, val := valPort (altOf data), mode := BitVec.ofNat 2 data.toNat } := by
  rw [l1dec_eq, modeRecognized_data, decide_eq_true h, signed_ladderDec_eq_altOf, extractLsb'_mode]
  rfl

end L1dec

/-! ### What the codec operations answer -/

theorem answers_encOp_of_eq (c : Codec) (val : Option Int) (mode : ModeCode) (s : State) {e : Encoded}
    (h : encodeBy c val mode = e) : Answers (encOp c val mode) s { ssm := e.ssm, data := e.data } :=
  h ▸ answers_encOp c val mode s

theorem answers_decOp_of_eq (c : Codec) (ssm : Status) (data : Data) (s : State) {q : Payload}
    (h : decodeBy c ssm data = q) : Answers (decOp c ssm data) s { kind := q.kind, val := q.val, mode := q.mode } :=
  h ▸ answers_decOp c ssm data s

/-- Settles O27: the four cases of L1ENC. -/
theorem l1encPacksAltitudeAndMode : Obligations.L1encPacksAltitudeAndMode := by
  refine fun s mode => ⟨?_, fun h => ?_, fun v h hv => ?_, fun v h hv => ?_⟩
  · rintro alt rfl
    exact answers_encOp_of_eq .alt alt 3 s (l1enc_unrecognized alt)
  · rw [BitVec.ofNat_toNat]
    exact answers_encOp_of_eq .alt none mode s (l1enc_absent h)
  · exact answers_encOp_of_eq .alt (some v) mode s (l1enc_outOfRange h hv)
  · obtain ⟨d, henc, hd⟩ := l1enc_inRange h hv
    exact ⟨d, answers_encOp_of_eq .alt (some v) mode s henc, hd⟩

/-- Settles O28: the four cases of L1DEC. -/
theorem l1decUnpacksAltitudeAndMode : Obligations.L1decUnpacksAltitudeAndMode := by
  refine fun s ssm data => ⟨fun h => ?_, fun _ h => ?_, ?_, ?_⟩
  · exact answers_decOp_of_eq .alt ssm data s (l1dec_none h)
  · exact answers_decOp_of_eq .alt ssm data s (l1dec_unrecognized h)
  · rintro rfl h
    exact answers_decOp_of_eq .alt 1 data s (l1dec_absent h)
  · rintro rfl h
    exact ⟨_, answers_decOp_of_eq .alt 3 data s (l1dec_present h), toInt_valPort _ (natAbs_altOf_le data)⟩

/-! ### The round trip -/

/-- An altitude truncated toward zero to a multiple of 625 units (rule R123). -/
def truncated (v : Int) : Int := (if v < 0 then -1 else 1) * (625 * (v.natAbs / 625))

theorem natAbs_truncated (v : Int) : (truncated v).natAbs = 625 * (v.natAbs / 625) := by
  rw [truncated]
  split <;> omega

theorem truncated_sign (v : Int) : truncated v = 0 ∨ (truncated v < 0 ↔ v < 0) := by
  rw [truncated]
  split <;> omega

theorem truncated_eq_self_iff (v : Int) : truncated v = v ↔ 625 ∣ v.natAbs := by
  rw [truncated]
  split <;> omega

theorem natAbs_sub_truncated_lt (v : Int) : (v - truncated v).natAbs < 625 := by
  rw [truncated]
  split <;> omega

section Packed

variable {d : Data} {v : Int} {mode : ModeCode}
  (hd : d.toNat = (if v < 0 then 2 ^ 18 else 0) + 4 * (v.natAbs / 625) + mode.toNat)

include hd

/-- Data that packs an altitude in range stands for the truncated altitude. -/
theorem altOf_of_packed (hv : v.natAbs ≤ 20480000) : altOf d = truncated v := by
  have hmode := ModeCode.toNat_lt mode
  have hcode : d.toNat / 4 % 2 ^ 16 = v.natAbs / 625 := by rw [hd]; split <;> omega
  have hsign : 2 ^ 18 ≤ d.toNat ↔ v < 0 := by rw [hd]; split <;> omega
  simp only [altOf, truncated, hsign]
  norm_cast
  rw [hcode]

theorem packed_mod_four : d.toNat % 4 = mode.toNat := by
  have hmode := ModeCode.toNat_lt mode
  rw [hd]
  split <;> omega

end Packed

theorem toNat_mode_ne_three {mode : ModeCode} (h : mode ≠ 3) : mode.toNat ≠ 3 := fun h3 => h (BitVec.eq_of_toNat_eq h3)

theorem ofNat_eq_mode {mode : ModeCode} {n : Nat} (h : n % 4 = mode.toNat) : BitVec.ofNat 2 n = mode := by
  refine BitVec.eq_of_toNat_eq ?_
  rw [BitVec.toNat_ofNat]
  exact h

/-- An altitude in range comes back truncated, with its mode. -/
theorem l1dec_l1enc_inRange {mode : ModeCode} {v : Int} (h : mode ≠ 3) (hv : v.natAbs ≤ 20480000) :
    ∃ d : Data, l1enc (some v) mode = { ssm := 3, data := d } ∧
      l1dec 3 d = { kind := .present, val := valPort (truncated v), mode := mode } := by
  obtain ⟨d, henc, hd⟩ := l1enc_inRange h hv
  have hmode := packed_mod_four hd
  refine ⟨d, henc, ?_⟩
  rw [l1dec_present (by rw [hmode]; exact toNat_mode_ne_three h), altOf_of_packed hd hv, ofNat_eq_mode hmode]

theorem toInt_valPort_truncated {v : Int} (hv : v.natAbs ≤ 20480000) :
    (valPort (truncated v)).toInt = truncated v := by
  have habs := natAbs_truncated v
  exact toInt_valPort _ (by omega)

/-- An absent altitude comes back absent, with its mode. -/
theorem l1dec_l1enc_absent {mode : ModeCode} (h : mode ≠ 3) :
    l1dec 1 (mode.setWidth 19) = { kind := .absent, mode := mode } := by
  have hlt := ModeCode.toNat_lt mode
  have hmode : (mode.setWidth 19).toNat % 4 = mode.toNat := by
    rw [BitVec.toNat_setWidth]
    omega
  rw [l1dec_absent (by rw [hmode]; exact toNat_mode_ne_three h), ofNat_eq_mode hmode]

/-- Settles O29: encoding and decoding in range, absent and out of range. -/
theorem altitudeRoundTrip : Obligations.AltitudeRoundTrip := by
  refine fun s mode h => ⟨fun v hv => ?_, ?_, fun v hv => ?_⟩
  · obtain ⟨d, henc, hdec⟩ := l1dec_l1enc_inRange h hv
    refine ⟨d, _, answers_encOp_of_eq .alt (some v) mode s henc, answers_decOp_of_eq .alt 3 d s hdec, ?_⟩
    rw [toInt_valPort_truncated hv]
    exact ⟨natAbs_truncated v, truncated_sign v, truncated_eq_self_iff v⟩
  · exact ⟨_, answers_encOp_of_eq .alt none mode s (l1enc_absent h),
      answers_decOp_of_eq .alt 1 _ s (l1dec_l1enc_absent h)⟩
  · exact ⟨0, 0, answers_encOp_of_eq .alt (some v) mode s (l1enc_outOfRange h hv),
      answers_decOp_of_eq .alt 0 0 s (l1dec_none (data := 0) (.inl rfl))⟩

end Sys2Proof.Machine
end

section
/-!
PROOFS. Labels 2 to 5 (41_label_codecs.md sections 2 to 7): the decimal digit groups, the operations of labels 2 to 5,
their round trips, and the range of every value that is answered.
-/

namespace Sys2Proof.Machine

/-! ### Digit groups -/

/-- The four decimal digits of a magnitude, each in its group (rule R128). -/
theorem toNat_dpack4 {m : Nat} (h : m ≤ 9999) :
    (dpack4 m).toNat = m % 10 + 16 * (m / 10 % 10) + 256 * (m / 100 % 10) + 4096 * (m / 1000) := by
  rw [dpack4_toNat]
  simp only [packDigits]
  omega

/-- The five decimal digits of a magnitude, each in its group (rule R128). -/
theorem toNat_dpack5 {m : Nat} (h : m ≤ 79999) :
    (dpack5 m).toNat = m % 10 + 16 * (m / 10 % 10) + 256 * (m / 100 % 10) + 4096 * (m / 1000 % 10) +
      65536 * (m / 10000) := by
  rw [dpack5_toNat m h]
  simp only [packDigits]
  omega

/-- Four groups, each counted as the number it holds. -/
theorem dunpack4_eq_groups (d : Data) :
    dunpack4 d = d.toNat % 16 + 10 * (d.toNat / 16 % 16) + 100 * (d.toNat / 256 % 16) +
      1000 * (d.toNat / 4096 % 16) := by
  rw [dunpack4_eq]
  simp only [unpackDigits]
  omega

/-- Five groups, the top one of three bits. -/
theorem dunpack5_eq_groups (d : Data) :
    dunpack5 d = d.toNat % 16 + 10 * (d.toNat / 16 % 16) + 100 * (d.toNat / 256 % 16) + 1000 * (d.toNat / 4096 % 16) +
      10000 * (d.toNat / 65536) := by
  have hlt := Data.toNat_lt d
  rw [dunpack5_eq]
  simp only [unpackDigits, Nat.div_div_eq_div_mul]
  omega

theorem dunpack4_le (d : Data) : dunpack4 d ≤ 16665 := by
  rw [dunpack4_eq_groups]
  omega

theorem dunpack5_le (d : Data) : dunpack5 d ≤ 86665 := by
  have hlt := Data.toNat_lt d
  rw [dunpack5_eq_groups]
  omega

theorem dunpack4_dpack4 {m : Nat} (h : m ≤ 9999) : dunpack4 (dpack4 m) = m := by
  rw [dunpack4_eq, dpack4_toNat, unpackDigits_packDigits 4 m (by omega)]

theorem dunpack5_dpack5 {m : Nat} (h : m ≤ 79999) : dunpack5 (dpack5 m) = m := by
  rw [dunpack5_eq, dpack5_toNat m h, unpackDigits_packDigits 5 m (by omega)]

/-- Four packed digits leave the fifth group empty. -/
theorem dunpack5_dpack4 {m : Nat} (h : m ≤ 9999) : dunpack5 (dpack4 m) = m := by
  have hdigits : packDigits 4 m = packDigits 5 m := by
    simp only [packDigits]
    omega
  rw [dunpack5_eq, dpack4_toNat, hdigits, unpackDigits_packDigits 5 m (by omega)]

/-- Settles O35: packed digits are read back group by group, and a group holds at most 15, the top one of label 4 at
most 7. -/
theorem digitGroupsAreInverse : Obligations.DigitGroupsAreInverse :=
  ⟨fun _ h => ⟨dunpack4_dpack4 h, dunpack5_dpack4 h⟩, fun _ h => dunpack5_dpack5 h,
    fun d => ⟨dunpack4_le d, dunpack5_le d⟩⟩

/-! ### Labels 2, 3 and 4 -/

section Decimal

variable {maxU : Nat} {digits : Nat → Data} {number : Data → Nat}

/-- The decoder that labels 2 to 4 share, on every status but 1. -/
theorem decimalDec_present {ssm : Status} (h : ssm ≠ 1) (data : Data) :
    decimalDec number ssm data =
      { kind := .present, val := valPort ((if ssm = 3 then -1 else 1) * (number data : Int)) } := by
  rw [decimalDec, if_neg h]
  split <;> simp

/-- A value in range comes back from the digits of its magnitude and its sign. -/
theorem decimalDec_decimalEnc {v : Int} (hinv : number (digits v.natAbs) = v.natAbs) (hv : v.natAbs ≤ maxU) :
    decimalDec number (decimalEnc maxU digits (some v)).ssm (decimalEnc maxU digits (some v)).data =
      { kind := .present, val := valPort v } := by
  rw [decimalEnc_inRange hv]
  by_cases hneg : v < 0
  · have hval : -(v.natAbs : Int) = v := by omega
    simp only [if_pos hneg, decimalDec_negative, hinv, hval]
  · have hval : (v.natAbs : Int) = v := by omega
    simp only [if_neg hneg, decimalDec_positive (.inl rfl), hinv, hval]

end Decimal

/-- The cases of the encoder that labels 2 and 3 share, as answers of their operations. -/
theorem answers_decimalEnc4 {c : Codec} (hc : ∀ val mode, encodeBy c val mode = decimalEnc 9999 dpack4 val) (s : State)
    (mode : ModeCode) :
    Answers (encOp c none mode) s { ssm := 1, data := 0 } ∧
    (∀ v : Int, 9999 < v.natAbs → Answers (encOp c (some v) mode) s { ssm := 1, data := 0 }) ∧
    (∀ v : Int, v.natAbs ≤ 9999 → ∃ d : Data,
      Answers (encOp c (some v) mode) s { ssm := if v < 0 then 3 else 0, data := d } ∧
      d.toNat = v.natAbs % 10 + 16 * (v.natAbs / 10 % 10) + 256 * (v.natAbs / 100 % 10) +
        4096 * (v.natAbs / 1000)) := by
  refine ⟨?_, fun v hv => ?_, fun v hv => ⟨dpack4 v.natAbs, ?_, toNat_dpack4 hv⟩⟩
  · exact answers_encOp_of_eq c none mode s ((hc none mode).trans decimalEnc_absent)
  · exact answers_encOp_of_eq c (some v) mode s ((hc (some v) mode).trans (decimalEnc_outOfRange hv))
  · exact answers_encOp_of_eq c (some v) mode s ((hc (some v) mode).trans (decimalEnc_inRange hv))

/-- Settles O30: both operations use the one encoder, on four digits. -/
theorem l2encAndL3encPackFourDigits : Obligations.L2encAndL3encPackFourDigits := by
  rintro s op (rfl | rfl)
  · exact answers_decimalEnc4 (c := .rate) (fun _ _ => rfl) s 0
  · exact answers_decimalEnc4 (c := .angle) (fun _ _ => rfl) s 0

/-- The value of a signed magnitude that fits the port. -/
theorem toInt_valPort_signed (ssm : Status) {m : Nat} (h : m ≤ 40959375) :
    (valPort ((if ssm = 3 then -1 else 1) * (m : Int))).toInt = (if ssm = 3 then -1 else 1) * (m : Int) := by
  refine toInt_valPort _ ?_
  split <;> omega

/-- The cases of the decoder that labels 2, 3 and 4 share, as answers of their operations. -/
theorem answers_decimalDec {c : Codec} {number : Data → Nat}
    (hc : ∀ ssm data, decodeBy c ssm data = decimalDec number ssm data) (hle : ∀ d, number d ≤ 40959375) (s : State) (ssm : Status) (data : Data) :
    (ssm = 1 → Answers (decOp c ssm data) s { kind := .absent }) ∧
    (ssm ≠ 1 → ∃ v : Val, Answers (decOp c ssm data) s { kind := .present, val := v } ∧
      v.toInt = (if ssm = 3 then -1 else 1) * (number data : Int)) := by
  refine ⟨?_, fun h => ⟨_, ?_, toInt_valPort_signed ssm (hle data)⟩⟩
  · rintro rfl
    exact answers_decOp_of_eq c 1 data s ((hc 1 data).trans decimalDec_absent)
  · exact answers_decOp_of_eq c ssm data s ((hc ssm data).trans (decimalDec_present h data))

theorem dunpack4_le_port (d : Data) : dunpack4 d ≤ 40959375 := Nat.le_trans (dunpack4_le d) (by decide)

theorem dunpack5_le_port (d : Data) : dunpack5 d ≤ 40959375 := Nat.le_trans (dunpack5_le d) (by decide)

/-- Settles O31: both operations use the one decoder, on four groups. -/
theorem l2decAndL3decUnpackFourGroups : Obligations.L2decAndL3decUnpackFourGroups := by
  rintro s op ssm data hop
  have hgroups := congrArg (Nat.cast (R := Int)) (dunpack4_eq_groups data)
  push_cast at hgroups
  rw [← hgroups]
  obtain rfl | rfl := hop
  · exact answers_decimalDec (c := .rate) (fun _ _ => rfl) dunpack4_le_port s ssm data
  · exact answers_decimalDec (c := .angle) (fun _ _ => rfl) dunpack4_le_port s ssm data

/-- Settles O32: the shared encoder on five digits. -/
theorem l4encPacksFiveDigits : Obligations.L4encPacksFiveDigits := by
  refine fun s => ⟨?_, fun v hv => ?_, fun v hv => ⟨dpack5 v.natAbs, ?_, toNat_dpack5 hv⟩⟩
  · exact answers_encOp .power none 0 s
  · exact answers_encOp_of_eq .power (some v) 0 s (decimalEnc_outOfRange hv)
  · exact answers_encOp_of_eq .power (some v) 0 s (decimalEnc_inRange hv)

/-- Settles O33: the shared decoder on five groups. -/
theorem l4decUnpacksFiveGroups : Obligations.L4decUnpacksFiveGroups := by
  intro s ssm data
  have hgroups := congrArg (Nat.cast (R := Int)) (dunpack5_eq_groups data)
  push_cast at hgroups
  rw [← hgroups]
  exact answers_decimalDec (c := .power) (fun _ _ => rfl) dunpack5_le_port s ssm data

/-! ### Label 5 -/

theorem l5enc_present (v : Int) : l5enc (some v) = { ssm := 0, data := if v = 0 then 0 else 1 } := by
  simp only [l5enc, Config.label5Enc, ne_eq, ite_not]

theorem l5dec_present {ssm : Status} (h : ssm ≠ 1) (data : Data) :
    l5dec ssm data = { kind := .present, val := if data = 0 then 0 else 1 } := by
  simp only [l5dec, Config.label5Dec, if_neg h, ne_eq, ite_not]

/-- Settles O34: absent, zero and nonzero in both directions. -/
theorem l5PacksAndUnpacksTheFlag : Obligations.L5PacksAndUnpacksTheFlag := by
  refine fun s => ⟨answers_encOp .flag none 0 s, answers_encOp .flag (some 0) 0 s, fun v hv => ?_,
    fun data => answers_decOp .flag 1 data s, fun ssm h => ?_, fun ssm data h hdata => ?_⟩
  · exact answers_encOp_of_eq .flag (some v) 0 s ((l5enc_present v).trans (by rw [if_neg hv]))
  · exact answers_decOp_of_eq .flag ssm 0 s (l5dec_present h 0)
  · exact answers_decOp_of_eq .flag ssm data s ((l5dec_present h data).trans (by rw [if_neg hdata]))

/-! ### The round trip of labels 2 to 5 -/

/-- What a label's decoder makes of what its encoder gives. -/
def roundTrip (c : Codec) (val : Option Int) (mode : ModeCode) : Payload :=
  decodeBy c (encodeBy c val mode).ssm (encodeBy c val mode).data

theorem roundTrip_absent {c : Codec} (h : c ≠ .alt) (mode : ModeCode) :
    roundTrip c none mode = { kind := .absent } := by
  cases c with
  | alt => exact absurd rfl h
  | rate | angle | power | flag => rfl

theorem roundTrip_flag (v : Int) (mode : ModeCode) :
    roundTrip .flag (some v) mode = { kind := .present, val := if v = 0 then 0 else 1 } := by
  change l5dec (l5enc (some v)).ssm (l5enc (some v)).data = _
  rw [l5enc_present]
  split
  case isTrue => rfl
  case isFalse => rfl

section Quantity

variable {c : Codec} {v : Int} (halt : c ≠ .alt) (hflag : c ≠ .flag) (mode : ModeCode)

include halt hflag

theorem roundTrip_inRange (hv : v.natAbs ≤ if c = .power then 79999 else 9999) :
    roundTrip c (some v) mode = { kind := .present, val := valPort v } := by
  cases c with
  | alt => exact absurd rfl halt
  | rate => exact decimalDec_decimalEnc (dunpack4_dpack4 hv) hv
  | angle => exact decimalDec_decimalEnc (dunpack4_dpack4 hv) hv
  | power => exact decimalDec_decimalEnc (dunpack5_dpack5 hv) hv
  | flag => exact absurd rfl hflag

theorem roundTrip_outOfRange (hv : (if c = .power then 79999 else 9999) < v.natAbs) :
    roundTrip c (some v) mode = { kind := .absent } := by
  have henc : encodeBy c (some v) mode = { ssm := 1, data := 0 } := by
    cases c with
    | alt => exact absurd rfl halt
    | rate => exact decimalEnc_outOfRange hv
    | angle => exact decimalEnc_outOfRange hv
    | power => exact decimalEnc_outOfRange hv
    | flag => exact absurd rfl hflag
  rw [roundTrip, henc]
  cases c with
  | alt => exact absurd rfl halt
  | rate | angle | power | flag => rfl

end Quantity

theorem toInt_valPort_inRange {c : Codec} {v : Int} (hv : v.natAbs ≤ if c = .power then 79999 else 9999) :
    (valPort v).toInt = v := by
  refine toInt_valPort v ?_
  split at hv <;> omega

/-- Settles O36: the round trip of the codecs, absent, flag, in range and out of range. -/
theorem labelsTwoToFiveRoundTrip : Obligations.LabelsTwoToFiveRoundTrip := by
  refine fun s c mode halt => ⟨⟨_, _, answers_encOp c none mode s, ?_⟩, fun v => ⟨_, _, answers_encOp c (some v) mode s,
    ?_, fun hflag hv => ⟨valPort v, toInt_valPort_inRange hv, ?_⟩, fun hflag hv => ?_⟩⟩
  · exact answers_decOp_of_eq c _ _ s (roundTrip_absent halt mode)
  · rintro rfl
    exact answers_decOp_of_eq .flag _ _ s (roundTrip_flag v mode)
  · exact answers_decOp_of_eq c _ _ s (roundTrip_inRange halt hflag mode hv)
  · exact answers_decOp_of_eq c _ _ s (roundTrip_outOfRange halt hflag mode hv)

/-! ### The round trip in physical units -/

theorem physical_alt (k : Int) : physical .alt k = k / 512 := by
  rw [physical, unitOf, Config.altUnit, Config.altFracBits]
  norm_num
  ring

theorem physical_rate (k : Int) : physical .rate k = k / 10 := by
  rw [physical, unitOf, Config.l23Unit]
  ring

theorem physical_power (k : Int) : physical .power k = k / 100 := by
  rw [physical, unitOf, Config.l4Unit]
  ring

/-- Truncation loses less than 625 units, which is 40000 / 2^15 ft. -/
theorem physical_sub_truncated_lt (v : Int) :
    |physical .alt v - physical .alt (truncated v)| < 40000 / 2 ^ 15 := by
  have habs := natAbs_sub_truncated_lt v
  have hint : |v - truncated v| < 625 := by rw [Int.abs_eq_natAbs]; omega
  have hrat : |(v : ℚ) - truncated v| < 625 := by exact_mod_cast hint
  rw [physical_alt, physical_alt, ← sub_div, abs_div, div_lt_iff₀ (by norm_num)]
  norm_num
  exact hrat

/-- Settles O37: an altitude comes back truncated, every other quantity exactly. -/
theorem roundTripWithinThePrecision : Obligations.RoundTripWithinThePrecision := by
  refine ⟨fun k => ⟨physical_alt k, physical_rate k, physical_rate k, physical_power k⟩,
    fun s c v mode hflag hmode hv => ?_⟩
  by_cases halt : c = .alt
  · subst halt
    obtain ⟨d, henc, hdec⟩ := l1dec_l1enc_inRange (hmode rfl) hv
    refine ⟨3, d, _, mode, answers_encOp_of_eq .alt (some v) mode s henc, answers_decOp_of_eq .alt 3 d s hdec,
      fun _ => ?_, fun h => absurd rfl h⟩
    rw [toInt_valPort_truncated hv]
    exact physical_sub_truncated_lt v
  · rw [if_neg halt] at hv
    refine ⟨_, _, valPort v, 0, answers_encOp c (some v) mode s,
      answers_decOp_of_eq c _ _ s (roundTrip_inRange halt hflag mode hv), fun h => absurd h halt, fun _ => ?_⟩
    rw [toInt_valPort_inRange hv]

end Sys2Proof.Machine
end

section
/-!
PROOFS. The label lookup (30_encoding.md rules R66, R67; 42_word_codec.md rule R174): which label has which codec, on
the label port, as a digit-pack and as the label field of a Bus Word.
-/

namespace Sys2Proof.Machine

/-! ### Digits -/

section Digits

variable (lab : Lab) (pack : Pack)

theorem labH_eq : labH lab = lab.toNat / 256 % 16 := by
  rw [labH, BitVec.extractLsb'_toNat, Nat.shiftRight_eq_div_pow]

theorem labT_eq : labT lab = lab.toNat / 16 % 16 := by
  rw [labT, BitVec.extractLsb'_toNat, Nat.shiftRight_eq_div_pow]

theorem labU_eq : labU lab = lab.toNat % 16 := by
  rw [labU, BitVec.extractLsb'_toNat, Nat.shiftRight_zero]

theorem labH_labOfPack : labH (labOfPack pack) = pack.toNat / 64 := by
  have hlt := Pack.toNat_lt pack
  rw [labH, labOfPack]
  simp (disch := decide) only [BitVec.extractLsb'_append_eq_of_le]
  simp [Nat.shiftRight_eq_div_pow]
  omega

theorem labT_labOfPack : labT (labOfPack pack) = pack.toNat / 8 % 8 := by
  have hlt := Pack.toNat_lt pack
  rw [labT, labOfPack]
  simp (disch := decide) only [BitVec.extractLsb'_append_eq_of_le, BitVec.extractLsb'_append_eq_of_add_le]
  simp [Nat.shiftRight_eq_div_pow]
  omega

theorem labU_labOfPack : labU (labOfPack pack) = pack.toNat % 8 := by
  rw [labU, labOfPack, BitVec.extractLsb'_append_eq_right]
  simp
  omega

/-- The digits of a pack are always in range (rule R173). -/
theorem digits_labOfPack_le : labH (labOfPack pack) ≤ 3 ∧ labT (labOfPack pack) ≤ 7 ∧ labU (labOfPack pack) ≤ 7 := by
  have hlt := Pack.toNat_lt pack
  rw [labH_labOfPack, labT_labOfPack, labU_labOfPack]
  omega

end Digits

/-! ### The table -/

/-- The table of codecs names each label number once. -/
theorem lookup_registered_eq_some_iff (n : Nat) (c : Codec) :
    Config.registered.lookup n = some c ↔ n = labNumber (labOf c) := by
  constructor
  · intro h
    obtain ⟨l, l', hl, -⟩ := List.lookup_eq_some_iff.mp h
    have hmem : (n, c) ∈ Config.registered := hl ▸ List.mem_append_right l List.mem_cons_self
    have hnumbers : ∀ e ∈ Config.registered, e.1 = labNumber (labOf e.2) := by decide
    exact hnumbers (n, c) hmem
  · rintro rfl
    cases c <;> rfl

/-- The label of a codec is the only one with its number, whose digits H and T are 0. -/
theorem eq_labOf_of_labNumber {lab : Lab} {c : Codec} (h : labNumber lab = labNumber (labOf c)) : lab = labOf c := by
  have hlt := Lab.toNat_lt lab
  have hsmall : labNumber (labOf c) ≤ 5 := by cases c <;> decide
  have hself : (labOf c).toNat = labNumber (labOf c) := by cases c <;> rfl
  rw [← h, labNumber, labH_eq, labT_eq, labU_eq] at hsmall hself
  have hH : lab.toNat / 256 % 16 = 0 := by omega
  have hT : lab.toNat / 16 % 16 = 0 := by omega
  refine BitVec.eq_of_toNat_eq ?_
  omega

/-- The codec lookup on the label port (rule R174). -/
theorem codecOf_eq_some_iff (lab : Lab) (c : Codec) : codecOf lab = some c ↔ lab = labOf c := by
  constructor
  · intro h
    rw [codecOf] at h
    split at h
    case isTrue => exact eq_labOf_of_labNumber ((lookup_registered_eq_some_iff _ c).mp h)
    case isFalse => exact nomatch h
  · rintro rfl
    cases c <;> rfl

theorem codecOf_labOf (c : Codec) : codecOf (labOf c) = some c := (codecOf_eq_some_iff _ c).mpr rfl

theorem codecOf_eq_none_iff (lab : Lab) : codecOf lab = none ↔ ∀ c : Codec, lab ≠ labOf c := by
  rw [Option.eq_none_iff_forall_not_mem]
  exact forall_congr' fun c => not_congr (codecOf_eq_some_iff lab c)

/-! ### The label field of a Bus Word -/

theorem rev_packOfLab_labOf (c : Codec) : rev (packOfLab (labOf c)) = labelField c := by
  cases c <;> decide

theorem labOfPack_rev_labelField (c : Codec) : labOfPack (rev (labelField c)) = labOf c := by
  cases c <;> decide

theorem labOfPack_injective {p q : Pack} (h : labOfPack p = labOfPack q) : p = q := by
  have hH := congrArg labH h
  have hT := congrArg labT h
  have hU := congrArg labU h
  rw [labH_labOfPack, labH_labOfPack] at hH
  rw [labT_labOfPack, labT_labOfPack] at hT
  rw [labU_labOfPack, labU_labOfPack] at hU
  refine BitVec.eq_of_toNat_eq ?_
  omega

/-- The codec lookup on a label field: the five patterns of rule R77 and no other. -/
theorem codecOf_labOfPack_rev_iff (field : Pack) (c : Codec) :
    codecOf (labOfPack (rev field)) = some c ↔ field = labelField c := by
  rw [codecOf_eq_some_iff, ← labOfPack_rev_labelField]
  exact ⟨fun h => (rev_bijective 8).injective (labOfPack_injective h), fun h => h ▸ rfl⟩

theorem codecOf_labOfPack_rev_eq_none {field : Pack} (h : ∀ c : Codec, field ≠ labelField c) :
    codecOf (labOfPack (rev field)) = none := by
  rw [Option.eq_none_iff_forall_not_mem]
  exact fun c hc => h c ((codecOf_labOfPack_rev_iff field c).mp hc)

/-- The five label fields un-reverse to the packs 1 to 5. -/
theorem pack_labelField_bounds (c : Codec) : 1 ≤ (rev (labelField c)).toNat ∧ (rev (labelField c)).toNat ≤ 5 := by
  cases c <;> decide

end Sys2Proof.Machine
end

section
/-!
PROOFS. The Word Codec (42_word_codec.md): the word WENC builds, what WDEC makes of a word, and how the two and the
unit operations fit together.
-/

namespace Sys2Proof.Machine

/-! ### WDEC (rules R172, R173) -/

theorem wordValid_of_odd {w : BusWord} (h : onesIn w % 2 = 1) : wordValid w = true := by
  rw [wordValid_eq_odd, decide_eq_true h]

theorem wordValid_of_even {w : BusWord} (h : onesIn w % 2 = 0) : wordValid w = false := by
  rw [wordValid_eq_odd, decide_eq_false (by omega)]

/-- What WDEC answers for a word that passes the parity check and has the label field of a codec. -/
def decodedResult (c : Codec) (w : BusWord) : Result :=
  deliveredResult (labOf c) (extractFields w).sdi (extractFields w).ssm
    (decodeBy c (extractFields w).ssm (extractFields w).data)

theorem wdecResult_of_even {w : BusWord} (h : onesIn w % 2 = 0) : wdecResult w = invalidResult :=
  wdecResult_badParity (wordValid_of_even h)

theorem wdecResult_of_no_labelField {w : BusWord} (h : ∀ c : Codec, w.extractLsb' 24 8 ≠ labelField c) :
    wdecResult w = invalidResult :=
  wdecResult_noCodec (codecOf_labOfPack_rev_eq_none h)

theorem wdecResult_of_labelField {w : BusWord} {c : Codec} (hodd : onesIn w % 2 = 1)
    (h : w.extractLsb' 24 8 = labelField c) : wdecResult w = decodedResult c w := by
  have hpack : (extractFields w).pack = rev (labelField c) := by rw [extractFields_pack, h]
  have hcodec : codecOf (labOfPack (extractFields w).pack) = some c := by
    rw [hpack]
    exact (codecOf_labOfPack_rev_iff _ c).mpr rfl
  rw [wdecResult_codec (wordValid_of_odd hodd) hcodec, hpack, labOfPack_rev_labelField, decodedResult]

theorem answers_wdec (s : State) (w : BusWord) : Answers (.wdec w) s (wdecResult w) :=
  answers_of_exec_eq_complete (exec_wdec s w)

section Wdec

variable {w : BusWord} (s : State)

theorem answers_wdec_of_even (h : onesIn w % 2 = 0) : Answers (.wdec w) s invalidResult :=
  wdecResult_of_even h ▸ answers_wdec s w

theorem answers_wdec_of_no_labelField (h : ∀ c : Codec, w.extractLsb' 24 8 ≠ labelField c) :
    Answers (.wdec w) s invalidResult :=
  wdecResult_of_no_labelField h ▸ answers_wdec s w

theorem answers_wdec_of_labelField {c : Codec} (hodd : onesIn w % 2 = 1) (h : w.extractLsb' 24 8 = labelField c) :
    Answers (.wdec w) s (decodedResult c w) :=
  wdecResult_of_labelField hodd h ▸ answers_wdec s w

end Wdec

/-- Settles O43: by parity and label field. -/
theorem wdecTakesTheWordApart : Obligations.WdecTakesTheWordApart :=
  fun s w => ⟨answers_wdec_of_even s, fun c hodd h => ⟨_, _, _, _, fun _ => getLsbD_extractFields_sdi w,
    fun _ => getLsbD_extractFields_data w, fun _ => getLsbD_extractFields_ssm w, answers_decOp c _ _ s,
    answers_wdec_of_labelField s hodd h⟩⟩

/-- Of the 256 packs, 251 are none of 1 to 5. -/
theorem countP_packs_without_codec : ((List.range 256).countP fun n => decide (¬ (1 ≤ n ∧ n ≤ 5))) = 251 := by
  have hfirst : ((List.range 6).countP fun n => decide (¬ (1 ≤ n ∧ n ≤ 5))) = 1 := by decide
  have hrest : (List.range 250).countP ((fun n => decide (¬ (1 ≤ n ∧ n ≤ 5))) ∘ (6 + ·)) = 250 := by
    rw [List.countP_eq_length.mpr, List.length_range]
    exact fun n _ => decide_eq_true (show ¬ (1 ≤ 6 + n ∧ 6 + n ≤ 5) by omega)
  rw [show 256 = 6 + 250 from rfl, List.range_add, List.countP_append, List.countP_map, hfirst, hrest]

/-- Settles O44: the packs 1 to 5 are those of the five label fields. -/
theorem wdecWithoutCodecIsInvalid : Obligations.WdecWithoutCodecIsInvalid := by
  refine ⟨fun s w _ hpack => answers_wdec_of_no_labelField s fun c hc => hpack ?_, countP_packs_without_codec,
    fun s => answers_wdec_of_no_labelField s fun c => ?_, fun w => digits_labOfPack_le _⟩
  · exact hc ▸ pack_labelField_bounds c
  · cases c <;> decide

/-- Settles O51: by parity and label field; a word with both right is delivered. -/
theorem invalidWordCauses : Obligations.InvalidWordCauses := by
  intro s w
  have hpchk : decide (onesIn w % 2 = 1) = false ↔ onesIn w % 2 = 0 := by
    rw [decide_eq_false_iff_not]
    omega
  refine ⟨_, _, answers_pchk s w, answers_wdec s w, ?_⟩
  obtain heven | hodd := Nat.mod_two_eq_zero_or_one (onesIn w)
  · rw [wdecResult_of_even heven]
    refine ⟨iff_of_true rfl (.inl heven), hpchk, fun _ => rfl, ?_⟩
    rintro ⟨hvalid, -⟩
    exact absurd (hpchk.mpr heven) (ne_false_of_eq_true hvalid)
  · by_cases hlabel : ∃ c : Codec, w.extractLsb' 24 8 = labelField c
    · obtain ⟨c, hc⟩ := hlabel
      rw [wdecResult_of_labelField hodd hc]
      have hcause : ¬ (onesIn w % 2 = 0 ∨ ∀ c : Codec, w.extractLsb' 24 8 ≠ labelField c) := by
        rintro (heven | hnone)
        · omega
        · exact hnone c hc
      exact ⟨iff_of_false nofun hcause, hpchk, nofun, nofun⟩
    · have hnone := not_exists.mp hlabel
      rw [wdecResult_of_no_labelField hnone]
      exact ⟨iff_of_true rfl (.inr hnone), hpchk, fun _ => rfl, fun _ => hnone⟩

/-! ### WENC (rules R170, R171) -/

/-- The word WENC builds for a registered label. -/
def wencWord (c : Codec) (sdi : Sdi) (val : Option Int) (mode : ModeCode) : BusWord :=
  assemble { pack := packOfLab (labOf c), sdi := sdi, data := (encodeBy c val mode).data,
             ssm := (encodeBy c val mode).ssm }

section Wenc

variable (s : State) (c : Codec) (sdi : Sdi) (val : Option Int) (mode : ModeCode)

theorem answers_wenc : Answers (.wenc (labOf c) sdi val mode) s { word := wencWord c sdi val mode } :=
  answers_of_exec_eq_complete (by rw [exec_wenc, wencResult_codec (codecOf_labOf c), wencWord])

theorem odd_onesIn_wencWord : onesIn (wencWord c sdi val mode) % 2 = 1 := odd_onesIn_assemble _

theorem wencWord_labelField : (wencWord c sdi val mode).extractLsb' 24 8 = labelField c := by
  rw [wencWord, assemble_labelField, rev_packOfLab_labOf]

theorem extractFields_wencWord : extractFields (wencWord c sdi val mode) =
    { pack := packOfLab (labOf c), sdi := sdi, data := (encodeBy c val mode).data, ssm := (encodeBy c val mode).ssm } :=
  extractFields_assemble _

/-- Decoding the word WENC built delivers the label, the sdi, the status and what the value codec's round trip gives. -/
theorem answers_wdec_wencWord : Answers (.wdec (wencWord c sdi val mode)) s
    (deliveredResult (labOf c) sdi (encodeBy c val mode).ssm (roundTrip c val mode)) := by
  have h := answers_wdec_of_labelField s (odd_onesIn_wencWord c sdi val mode) (wencWord_labelField c sdi val mode)
  rw [decodedResult, extractFields_wencWord] at h
  exact h

theorem answers_wenc_noCodec {lab : Lab} (h : codecOf lab = none) : Answers (.wenc lab sdi val mode) s noCodecRefusal :=
  answers_of_exec_eq_complete (by rw [exec_wenc, wencResult_noCodec h])

end Wenc

/-- Settles O40: the bits of an assembled word. -/
theorem wencBuildsTheWord : Obligations.WencBuildsTheWord :=
  fun s c sdi val mode => ⟨_, _, _, answers_encOp c val mode s, answers_wenc s c sdi val mode,
    wencWord_labelField c sdi val mode, fun _ => getLsbD_assemble_ssm _, fun _ => getLsbD_assemble_data _,
    fun _ => getLsbD_assemble_sdi _, odd_onesIn_wencWord c sdi val mode⟩

/-- Settles O41: such a label has no codec. -/
theorem wencWithoutCodecRefuses : Obligations.WencWithoutCodecRefuses :=
  fun s _ sdi val mode h => answers_wenc_noCodec s sdi val mode ((codecOf_eq_none_iff _).mpr h)

/-- The reversed low part of a field on REV's port, moved to 32 bits, is the reversed field there. -/
theorem setWidth_revLow {w : Nat} (h : w ≤ 19) (x : BitVec w) :
    (revLow w (x.setWidth 19)).setWidth 32 = (rev x).setWidth 32 := by
  change ((rev ((x.setWidth 19).setWidth w)).setWidth 19).setWidth 32 = _
  rw [BitVec.setWidth_setWidth_of_le x h, BitVec.setWidth_eq, BitVec.setWidth_setWidth (by omega)]

/-- The four reversed fields, shifted to their places, are the assembly before parity. -/
theorem shifted_revLow_eq_assembleBody (c : Codec) (sdi : Sdi) (d : Data) (t : Status) :
    (revLow 8 (BitVec.ofNat 19 (labNumber (labOf c)))).setWidth 32 <<< 24 |||
        (revLow 2 (sdi.setWidth 19)).setWidth 32 <<< 22 ||| (revLow 19 d).setWidth 32 <<< 3 |||
        (revLow 2 (t.setWidth 19)).setWidth 32 <<< 1 =
      assembleBody { pack := packOfLab (labOf c), sdi := sdi, data := d, ssm := t } := by
  have hlabel : BitVec.ofNat 19 (labNumber (labOf c)) = (packOfLab (labOf c)).setWidth 19 := by cases c <;> rfl
  have hdata : (revLow 19 d).setWidth 32 = (rev d).setWidth 32 := by
    simpa only [BitVec.setWidth_eq] using setWidth_revLow (Nat.le_refl 19) d
  rw [hlabel, setWidth_revLow (by decide), setWidth_revLow (by decide), hdata, setWidth_revLow (by decide),
    assembleBody_eq]

/-- Settles O42: the four REVs and the shifts make the assembly before parity, and PGEN sets its parity bit. -/
theorem wencIsTheUnitOperations : Obligations.WencIsTheUnitOperations := by
  refine fun s c sdi val mode => ⟨_, _, _, _, _, _, wencWord c sdi val mode, answers_encOp c val mode s,
    answers_rev (sel := .w8) rfl _ s, answers_rev (sel := .w2) rfl _ s, answers_rev (sel := .w19) rfl _ s,
    answers_rev (sel := .w2) rfl _ s, ?_, answers_wenc s c sdi val mode⟩
  rw [shifted_revLow_eq_assembleBody]
  exact answers_pgen s _

/-- Settles O45: the word's fields are the command's. -/
theorem wordRoundTrip : Obligations.WordRoundTrip :=
  fun s c sdi val mode => ⟨_, _, _, _, answers_encOp c val mode s, answers_decOp c _ _ s, answers_wenc s c sdi val mode,
    answers_wdec_wencWord s c sdi val mode⟩

/-- A word with an odd count of ones passes the parity check, and with one bit flipped it decodes to invalid. -/
theorem pchk_and_flips_of_odd {w : BusWord} (h : onesIn w % 2 = 1) (s : State) :
    Answers (.pchk w) s { valid := true } ∧
      ∀ b < 32, Answers (.wdec (w ^^^ BitVec.twoPow 32 b)) s { valid := false } :=
  ⟨answers_pchk_valid s h, fun _ hb => answers_wdec_of_even s (even_onesIn_flip h hb)⟩

theorem odd_onesIn_errorWord : onesIn Config.errorWord % 2 = 1 := by decide

theorem answers_errw (s : State) : Answers .errw s { word := Config.errorWord } :=
  answers_of_exec_eq_complete (exec_errw s)

/-- Settles O46: the error word and every assembled word have an odd count of ones. -/
theorem flippedBitIsDetected : Obligations.FlippedBitIsDetected := by
  rintro s i (rfl | ⟨lab, sdi, val, mode, rfl⟩)
  · exact ⟨_, _, answers_errw s, pchk_and_flips_of_odd odd_onesIn_errorWord s⟩
  · cases hc : codecOf lab with
    | none => exact ⟨_, _, answers_wenc_noCodec s sdi val mode hc, pchk_and_flips_of_odd odd_onesIn_errorWord s⟩
    | some c =>
      obtain rfl := (codecOf_eq_some_iff lab c).mp hc
      exact ⟨_, _, answers_wenc s c sdi val mode, pchk_and_flips_of_odd (odd_onesIn_wencWord c sdi val mode) s⟩

/-- An instruction answers one result. -/
theorem answers_unique {i : Instr} {s : State} {r r' : Result} (h : Answers i s r) (h' : Answers i s r') : r = r' := by
  have hstates := Host.Outcome.next.inj (h.symm.trans h')
  exact (List.cons.inj (congrArg State.results hstates)).1

/-- Settles O47: the word gives its fields back. -/
theorem wencIsInjective : Obligations.WencIsInjective := by
  intro s c c' sdi sdi' val val' mode mode' w h h'
  have hw : w = wencWord c sdi val mode := congrArg Result.word (answers_unique h (answers_wenc s c sdi val mode))
  have hw' : w = wencWord c' sdi' val' mode' :=
    congrArg Result.word (answers_unique h' (answers_wenc s c' sdi' val' mode'))
  have hwords := hw.symm.trans hw'
  have hlabel := congrArg (BitVec.extractLsb' 24 8) hwords
  rw [wencWord_labelField, wencWord_labelField] at hlabel
  have hfields := congrArg extractFields hwords
  rw [extractFields_wencWord, extractFields_wencWord, WordFields.mk.injEq] at hfields
  obtain ⟨-, hsdi, hdata, hssm⟩ := hfields
  refine ⟨labelField_injective hlabel, hsdi, _, _, answers_encOp c val mode s, ?_⟩
  rw [hssm, hdata]
  exact answers_encOp c' val' mode' s

/-- Settles O48: the error word's label field is 0, which is no codec's. -/
theorem errwAnswersTheErrorWord : Obligations.ErrwAnswersTheErrorWord := by
  refine fun s => ⟨answers_errw s, by decide, answers_pchk_valid s odd_onesIn_errorWord,
    answers_wdec_of_no_labelField s fun c => ?_⟩
  cases c <;> decide

end Sys2Proof.Machine
end

section
/-!
PROOFS. The sdi, the sentinels and the Bus Word rows (30_encoding.md rules R64, R77; 60_exceptions.md rules R202 to
R204): what WDEC answers for particular words, and that a bare word is answered as WDEC answers it.
-/

namespace Sys2Proof.Machine

/-! ### The sdi (rule R64) -/

/-- Pattern words that differ in the sdi and the parity bit alone differ at word bits 0, 22 and 23 alone. -/
theorem getLsbD_patternWord_of_ne (field : Pack) (sdi sdi' : Sdi) (data : Data) (ssm : Status) (p p' : Bool) {i : Nat}
    (h0 : i ≠ 0) (h22 : i ≠ 22) (h23 : i ≠ 23) :
    (patternWord field sdi data ssm p).getLsbD i = (patternWord field sdi' data ssm p').getLsbD i := by
  rw [getLsbD_patternWord, getLsbD_patternWord, if_neg (by omega), if_neg (show ¬ i < 1 by omega)]
  split_ifs
  · rfl
  · rfl
  · omega
  · rfl

theorem getLsbD_wencWord_of_ne (c : Codec) (sdi sdi' : Sdi) (val : Option Int) (mode : ModeCode) {i : Nat}
    (h0 : i ≠ 0) (h22 : i ≠ 22) (h23 : i ≠ 23) :
    (wencWord c sdi val mode).getLsbD i = (wencWord c sdi' val mode).getLsbD i := by
  rw [wencWord, wencWord, assemble_eq_patternWord, assemble_eq_patternWord]
  exact getLsbD_patternWord_of_ne _ _ _ _ _ _ _ h0 h22 h23

section SameButSdi

variable {w w' : BusWord} (hbits : ∀ i < 32, i ≠ 0 → i ≠ 22 → i ≠ 23 → w.getLsbD i = w'.getLsbD i)

include hbits

/-- Words that agree but for sdi and parity have the same slices elsewhere. -/
theorem extractLsb'_eq_of_same_but_sdi {lo len : Nat} (h : 0 < lo ∧ lo + len ≤ 22 ∨ 24 ≤ lo ∧ lo + len ≤ 32) :
    w.extractLsb' lo len = w'.extractLsb' lo len := by
  refine BitVec.eq_of_getLsbD_eq fun i hi => ?_
  rw [BitVec.getLsbD_extractLsb', BitVec.getLsbD_extractLsb', hbits (lo + i) (by omega) (by omega) (by omega)
    (by omega)]

/-- What they decode to differs in the sdi alone. -/
theorem decodedResult_of_same_but_sdi (c : Codec) :
    decodedResult c w = { decodedResult c w' with sdi := (decodedResult c w).sdi } := by
  have hdata : (extractFields w).data = (extractFields w').data :=
    congrArg rev (extractLsb'_eq_of_same_but_sdi hbits (lo := 3) (len := 19) (by decide))
  have hssm : (extractFields w).ssm = (extractFields w').ssm :=
    congrArg rev (extractLsb'_eq_of_same_but_sdi hbits (lo := 1) (len := 2) (by decide))
  rw [decodedResult, decodedResult, hdata, hssm]
  rfl

end SameButSdi

/-- Settles O49: the sdi stands at word bits 22 and 23 and is read there, and neither codec looks at it. -/
theorem sdiIsCarriedUnchanged : Obligations.SdiIsCarriedUnchanged := by
  refine ⟨fun s c sdi val mode => ?_, fun s w w' hodd hodd' hbits => ?_, fun s => ⟨_, answers_errw s, by decide⟩⟩
  · exact ⟨_, _, answers_wenc s c sdi val mode, answers_wenc s c 0 val mode,
      getLsbD_assemble_sdi _ (i := 1) (by decide), getLsbD_assemble_sdi _ (i := 0) (by decide), fun i _ => getLsbD_wencWord_of_ne c sdi 0 val mode, _, _,
      answers_wdec_wencWord s c sdi val mode, answers_wdec_wencWord s c 0 val mode, rfl, rfl⟩
  · have hlabel : w.extractLsb' 24 8 = w'.extractLsb' 24 8 := extractLsb'_eq_of_same_but_sdi hbits (by decide)
    by_cases hcodec : ∃ c : Codec, w.extractLsb' 24 8 = labelField c
    · obtain ⟨c, hc⟩ := hcodec
      exact ⟨_, _, answers_wdec_of_labelField s hodd hc, answers_wdec_of_labelField s hodd' (hlabel ▸ hc),
        decodedResult_of_same_but_sdi hbits c, fun _ => ⟨getLsbD_extractFields_sdi w (i := 0) (by decide),
        getLsbD_extractFields_sdi w (i := 1) (by decide)⟩⟩
    · have hnone := not_exists.mp hcodec
      exact ⟨_, _, answers_wdec_of_no_labelField s hnone, answers_wdec_of_no_labelField s (hlabel ▸ hnone), rfl,
        fun h => absurd h hcodec⟩

/-! ### Sentinels (rule R204) -/

/-- A word of label 1 whose status and data decode to no value is delivered with kind NONE. -/
theorem answers_wdec_label1_none (s : State) (sdi : Sdi) {data : Data} {ssm : Status}
    (h : l1dec ssm data = { kind := .none }) :
    Answers (.wdec (assemble { pack := 1, sdi := sdi, data := data, ssm := ssm })) s
      { valid := true, lab := 0x001, sdi := sdi, ssm := ssm, kind := .none } := by
  have hlabel : (assemble { pack := 1, sdi := sdi, data := data, ssm := ssm }).extractLsb' 24 8 = labelField .alt := by
    rw [assemble_labelField]
    exact (by decide : rev (1 : Pack) = labelField .alt)
  have hanswer := answers_wdec_of_labelField s (odd_onesIn_assemble _) hlabel
  rw [decodedResult, extractFields_assemble, decodeBy, h] at hanswer
  exact hanswer

/-- Settles O52: a registered label always gives a word with an odd count of ones, which is delivered. -/
theorem sentinelsAreNotErrors : Obligations.SentinelsAreNotErrors := by
  refine ⟨fun s c sdi val mode => ⟨_, _, answers_wenc s c sdi val mode,
    answers_wdec_wencWord s c sdi val mode, rfl, rfl⟩, fun s sdi data ssm h => answers_wdec_label1_none s sdi ?_⟩
  obtain hssm | hssm | hmode := h
  · exact l1dec_none (.inl hssm)
  · exact l1dec_none (.inr hssm)
  · exact l1dec_unrecognized hmode

/-- An unrecognized mode and an altitude out of range have the all-zero encoding. -/
theorem l1enc_sentinel {alt : Option Int} {mode : ModeCode} (h : mode = 3 ∨ ∃ v, alt = some v ∧ 20480000 < v.natAbs) :
    l1enc alt mode = { ssm := 0, data := 0 } := by
  by_cases hmode : mode = 3
  · rw [hmode, l1enc_unrecognized]
  · obtain ⟨v, rfl, hv⟩ := h.resolve_left hmode
    exact l1enc_outOfRange hmode hv

/-- The assembly of label 001, sdi 0 and the all-zero encoding. -/
theorem assemble_sentinel : assemble { pack := 1, sdi := 0, data := 0, ssm := 0 } = 0x80000000 := by decide

/-- Settles O53: the all-zero encoding assembled, which has one 1 bit. -/
theorem altitudeSentinelWord : Obligations.AltitudeSentinelWord := by
  refine fun s alt mode h => ⟨?_, answers_pchk_valid s (by decide), ?_⟩
  · have hword : wencWord .alt 0 alt mode = 0x80000000 := by
      rw [← assemble_sentinel, wencWord, encodeBy, l1enc_sentinel h]
      rfl
    exact hword ▸ answers_wenc s .alt 0 alt mode
  · exact assemble_sentinel ▸ answers_wdec_label1_none s 0 (l1dec_none (data := 0) (.inl rfl))

/-! ### The Bus Word rows (rule R77) -/

/-- Each row is the received word of its codec. -/
theorem exec_rowOp (c : Codec) (sdi : Sdi) (data : Data) (ssm : Status) (p : Bool) (s : State) :
    exec (rowOp c sdi data ssm p) s =
      complete (receivedResult (patternWord (labelField c) sdi data ssm p) (labOf c) sdi ssm
        (decodeBy c ssm data)) s := by
  cases c with
  | alt => exact exec_wordL1Alt s sdi data ssm p
  | rate => exact exec_wordL2Rate s sdi data ssm p
  | angle => exact exec_wordL3Angle s sdi data ssm p
  | power => exact exec_wordL4Power s sdi data ssm p
  | flag => exact exec_wordL5Flag s sdi data ssm p

/-- Settles O54: the ones of the row's word are those of its fields. -/
theorem busWordRowsDecode : Obligations.BusWordRowsDecode := by
  refine fun s c sdi data ssm p => ⟨_, answers_decOp c ssm data s, answers_of_exec_eq_complete ?_⟩
  rw [exec_rowOp, ← onesIn_patternWord]
  obtain heven | hodd := Nat.mod_two_eq_zero_or_one (onesIn (patternWord (labelField c) sdi data ssm p))
  · rw [receivedResult_invalid (wordValid_of_even heven), if_neg (by omega)]
    rfl
  · rw [receivedResult_valid (wordValid_of_odd hodd), if_pos hodd]
    rfl

/-- A word with a codec's label field is received as WDEC decodes it. -/
theorem receivedResult_eq_wdecResult {w : BusWord} {c : Codec} (h : w.extractLsb' 24 8 = labelField c) :
    receivedResult w (labOf c) (extractFields w).sdi (extractFields w).ssm
      (decodeBy c (extractFields w).ssm (extractFields w).data) = wdecResult w := by
  obtain heven | hodd := Nat.mod_two_eq_zero_or_one (onesIn w)
  · rw [receivedResult_invalid (wordValid_of_even heven), wdecResult_of_even heven]
  · rw [receivedResult_valid (wordValid_of_odd hodd), wdecResult_of_labelField hodd h, decodedResult]

/-- A step on a bare Bus Word records WDEC's result of it, whether or not its label field selects a row. -/
theorem step_busWord {s : State} {w : BusWord} {rest : List Input} (hs : s.issued = .busWord w :: rest) :
    step s = .next (s.answered (.busWord w) rest (wdecResult w)) := by
  by_cases hlabel : ∃ c : Codec, w.extractLsb' 24 8 = labelField c
  · obtain ⟨c, hc⟩ := hlabel
    refine step_of_completes hs (decode_busWord_of_labelField hc) fun t => ?_
    rw [exec_rowOp, ← hc, patternWord_extractFields, receivedResult_eq_wdecResult hc]
  · have hnone := not_exists.mp hlabel
    rw [step_of_decode_error hs (decode_busWord_of_no_labelField hnone), wdecResult_of_no_labelField hnone]

/-- Settles O10: both inputs record WDEC's result of the word. -/
theorem bareBusWordIsAnsweredAsWdec : Obligations.BareBusWordIsAnsweredAsWdec := by
  rintro s w c rest hop rfl
  exact ⟨_, answers_wdec s c.word, step_busWord rfl,
    step_of_completes rfl (decode_wdec hop) fun t => exec_wdec t c.word⟩

end Sys2Proof.Machine
end

section
/-!
PROOFS. What holds of every instruction and every command: the range of the values answered (41_label_codecs.md rule
R157, 30_encoding.md rule R74), the refusals (60_exceptions.md rule R202) and the fields that are not read
(30_encoding.md rules R72, R75).
-/

namespace Sys2Proof.Machine

theorem answers_rowOp (c : Codec) (sdi : Sdi) (data : Data) (ssm : Status) (p : Bool) (s : State) :
    Answers (rowOp c sdi data ssm p) s
      (receivedResult (patternWord (labelField c) sdi data ssm p) (labOf c) sdi ssm (decodeBy c ssm data)) :=
  answers_of_exec_eq_complete (exec_rowOp c sdi data ssm p s)

/-! ### The range of the values answered -/

/-- A kind and a value that a result may hold: no magnitude beyond the largest ladder code's, and 0 at NONE and ABSENT
(rules R74, R157). -/
def ValueInRange (k : Kind) (v : Val) : Prop :=
  -40959375 ≤ v.toInt ∧ v.toInt ≤ 40959375 ∧ (k ≠ .present → v = 0)

theorem valueInRange_zero (k : Kind) : ValueInRange k 0 := ⟨by decide, by decide, fun _ => rfl⟩

theorem valueInRange_one : ValueInRange .present 1 := ⟨by decide, by decide, fun h => absurd rfl h⟩

theorem valueInRange_valPort {v : Int} (h : v.natAbs ≤ 40959375) : ValueInRange .present (valPort v) := by
  rw [ValueInRange, toInt_valPort v h]
  exact ⟨by omega, by omega, fun hk => absurd rfl hk⟩

theorem l1dec_valueInRange (ssm : Status) (data : Data) : ValueInRange (l1dec ssm data).kind (l1dec ssm data).val := by
  rw [l1dec_eq]
  split_ifs with _ _ _ hneg
  · exact valueInRange_zero _
  · exact valueInRange_zero _
  · exact valueInRange_zero _
  · have hle := ladderDec_le (data.extractLsb' 2 16)
    exact valueInRange_valPort (by omega)
  · have hle := ladderDec_le (data.extractLsb' 2 16)
    exact valueInRange_valPort (by omega)

theorem decimalDec_valueInRange {number : Data → Nat} (hle : ∀ d, number d ≤ 40959375) (ssm : Status) (data : Data) :
    ValueInRange (decimalDec number ssm data).kind (decimalDec number ssm data).val := by
  have hdata := hle data
  by_cases h : ssm = 1
  · rw [h, decimalDec_absent]
    exact valueInRange_zero _
  · rw [decimalDec_present h]
    exact valueInRange_valPort (by split <;> omega)

theorem l5dec_valueInRange (ssm : Status) (data : Data) : ValueInRange (l5dec ssm data).kind (l5dec ssm data).val := by
  by_cases h : ssm = 1
  · rw [h]
    exact valueInRange_zero _
  · rw [l5dec_present h]
    by_cases hdata : data = 0
    · rw [if_pos hdata]
      exact valueInRange_zero _
    · rw [if_neg hdata]
      exact valueInRange_one

theorem decodeBy_valueInRange (c : Codec) (ssm : Status) (data : Data) :
    ValueInRange (decodeBy c ssm data).kind (decodeBy c ssm data).val := by
  cases c with
  | alt => exact l1dec_valueInRange ssm data
  | rate => exact decimalDec_valueInRange dunpack4_le_port ssm data
  | angle => exact decimalDec_valueInRange dunpack4_le_port ssm data
  | power => exact decimalDec_valueInRange dunpack5_le_port ssm data
  | flag => exact l5dec_valueInRange ssm data

/-! ### A word that is received -/

/-- What WDEC can answer: the invalid record, or the delivered record of a codec. -/
theorem wdecResult_cases (w : BusWord) : wdecResult w = invalidResult ∨ ∃ c, wdecResult w = decodedResult c w := by
  obtain heven | hodd := Nat.mod_two_eq_zero_or_one (onesIn w)
  · exact .inl (wdecResult_of_even heven)
  · by_cases hlabel : ∃ c : Codec, w.extractLsb' 24 8 = labelField c
    · obtain ⟨c, hc⟩ := hlabel
      exact .inr ⟨c, wdecResult_of_labelField hodd hc⟩
    · exact .inl (wdecResult_of_no_labelField (not_exists.mp hlabel))

theorem receivedResult_cases (w : BusWord) (lab : Lab) (sdi : Sdi) (ssm : Status) (q : Payload) :
    receivedResult w lab sdi ssm q = invalidResult ∨
      receivedResult w lab sdi ssm q = deliveredResult lab sdi ssm q := by
  cases h : wordValid w with
  | false => exact .inl (receivedResult_invalid h)
  | true => exact .inr (receivedResult_valid h)

theorem wdecResult_valueInRange (w : BusWord) : ValueInRange (wdecResult w).kind (wdecResult w).val := by
  obtain h | ⟨c, h⟩ := wdecResult_cases w
  · exact h ▸ valueInRange_zero _
  · exact h ▸ decodeBy_valueInRange c _ _

theorem receivedResult_valueInRange (c : Codec) (w : BusWord) (sdi : Sdi) (ssm : Status) (data : Data) :
    ValueInRange (receivedResult w (labOf c) sdi ssm (decodeBy c ssm data)).kind
      (receivedResult w (labOf c) sdi ssm (decodeBy c ssm data)).val := by
  obtain h | h := receivedResult_cases w (labOf c) sdi ssm (decodeBy c ssm data)
  · exact h ▸ valueInRange_zero _
  · exact h ▸ decodeBy_valueInRange c _ _

/-! ### Every instruction -/

/-- The instructions in nine forms, those of the five labels told by their codec. -/
theorem instr_cases {P : Instr → Prop} (i : Instr) (rev : ∀ sel x, P (.rev sel x)) (pgen : ∀ w, P (.pgen w))
    (pchk : ∀ w, P (.pchk w)) (enc : ∀ c val mode, P (encOp c val mode)) (dec : ∀ c ssm data, P (decOp c ssm data))
    (wenc : ∀ lab sdi val mode, P (.wenc lab sdi val mode)) (wdec : ∀ w, P (.wdec w)) (errw : P .errw)
    (row : ∀ c sdi data ssm p, P (rowOp c sdi data ssm p)) : P i := by
  cases i with
  | rev sel x => exact rev sel x
  | pgen w => exact pgen w
  | pchk w => exact pchk w
  | l1enc val mode => exact enc .alt val mode
  | l1dec ssm data => exact dec .alt ssm data
  | l2enc val => exact enc .rate val 0
  | l2dec ssm data => exact dec .rate ssm data
  | l3enc val => exact enc .angle val 0
  | l3dec ssm data => exact dec .angle ssm data
  | l4enc val => exact enc .power val 0
  | l4dec ssm data => exact dec .power ssm data
  | l5enc val => exact enc .flag val 0
  | l5dec ssm data => exact dec .flag ssm data
  | wenc lab sdi val mode => exact wenc lab sdi val mode
  | wdec w => exact wdec w
  | errw => exact errw
  | wordL1Alt sdi data ssm p => exact row .alt sdi data ssm p
  | wordL2Rate sdi data ssm p => exact row .rate sdi data ssm p
  | wordL3Angle sdi data ssm p => exact row .angle sdi data ssm p
  | wordL4Power sdi data ssm p => exact row .power sdi data ssm p
  | wordL5Flag sdi data ssm p => exact row .flag sdi data ssm p

theorem answers_rev_reserved (x : Data) (s : State) : Answers (.rev .reserved x) s wselRefusal :=
  answers_of_exec_eq_complete (exec_rev s .reserved x)

/-- REV answers the refusal at the reserved width select, and data alone at every other. -/
theorem answers_rev_cases (sel : RevSel) (x : Data) (s : State) :
    (sel = .reserved ∧ Answers (.rev sel x) s wselRefusal) ∨
      (sel ≠ .reserved ∧ ∃ y : Data, Answers (.rev sel x) s { data := y }) := by
  cases sel with
  | w2 => exact .inr ⟨nofun, _, answers_rev rfl x s⟩
  | w8 => exact .inr ⟨nofun, _, answers_rev rfl x s⟩
  | w19 => exact .inr ⟨nofun, _, answers_rev rfl x s⟩
  | reserved => exact .inl ⟨rfl, answers_rev_reserved x s⟩

/-- WENC answers the refusal without a codec, and a word alone with one. -/
theorem answers_wenc_cases (lab : Lab) (sdi : Sdi) (val : Option Int) (mode : ModeCode) (s : State) :
    (codecOf lab = none ∧ Answers (.wenc lab sdi val mode) s noCodecRefusal) ∨
      (codecOf lab ≠ none ∧ ∃ w : BusWord, Answers (.wenc lab sdi val mode) s { word := w }) := by
  cases hc : codecOf lab with
  | none => exact .inl ⟨rfl, answers_wenc_noCodec s sdi val mode hc⟩
  | some c =>
    obtain rfl := (codecOf_eq_some_iff lab c).mp hc
    exact .inr ⟨nofun, _, answers_wenc s c sdi val mode⟩

/-- Settles O39: a value other than 0 comes from a codec's decoder alone. -/
theorem everyValueAnsweredIsInRange : Obligations.EveryValueAnsweredIsInRange := by
  intro i s
  change ∃ r : Result, Answers i s r ∧ ValueInRange r.kind r.val
  cases i using instr_cases with
  | rev sel x =>
    obtain ⟨-, h⟩ | ⟨-, y, h⟩ := answers_rev_cases sel x s
    · exact ⟨_, h, valueInRange_zero _⟩
    · exact ⟨_, h, valueInRange_zero _⟩
  | pgen w => exact ⟨_, answers_pgen s w, valueInRange_zero _⟩
  | pchk w => exact ⟨_, answers_pchk s w, valueInRange_zero _⟩
  | enc c val mode => exact ⟨_, answers_encOp c val mode s, valueInRange_zero _⟩
  | dec c ssm data => exact ⟨_, answers_decOp c ssm data s, decodeBy_valueInRange c ssm data⟩
  | wenc lab sdi val mode =>
    obtain ⟨-, h⟩ | ⟨-, w, h⟩ := answers_wenc_cases lab sdi val mode s
    · exact ⟨_, h, valueInRange_zero _⟩
    · exact ⟨_, h, valueInRange_zero _⟩
  | wdec w => exact ⟨_, answers_wdec s w, wdecResult_valueInRange w⟩
  | errw => exact ⟨_, answers_errw s, valueInRange_zero _⟩
  | row c sdi data ssm p => exact ⟨_, answers_rowOp c sdi data ssm p s, receivedResult_valueInRange c _ sdi ssm data⟩

/-! ### Refusals -/

theorem wdecResult_err (w : BusWord) : (wdecResult w).err = false := by
  obtain h | ⟨c, h⟩ := wdecResult_cases w
  · exact h ▸ rfl
  · exact h ▸ rfl

theorem receivedResult_err (w : BusWord) (lab : Lab) (sdi : Sdi) (ssm : Status) (q : Payload) :
    (receivedResult w lab sdi ssm q).err = false := by
  obtain h | h := receivedResult_cases w lab sdi ssm q
  · exact h ▸ rfl
  · exact h ▸ rfl

/-- The two refusals of 60_exceptions.md rule R202. -/
def Refused (i : Instr) : Prop :=
  (∃ x, i = .rev .reserved x) ∨ ∃ lab sdi val mode, i = .wenc lab sdi val mode ∧ codecOf lab = none

theorem refused_rev_iff (sel : RevSel) (x : Data) : Refused (.rev sel x) ↔ sel = .reserved := by
  simp [Refused]

theorem refused_wenc_iff (lab : Lab) (sdi : Sdi) (val : Option Int) (mode : ModeCode) :
    Refused (.wenc lab sdi val mode) ↔ codecOf lab = none := by
  simp [Refused]

theorem not_refused_encOp (c : Codec) (val : Option Int) (mode : ModeCode) : ¬ Refused (encOp c val mode) := by
  cases c <;> simp [Refused, encOp]

theorem not_refused_decOp (c : Codec) (ssm : Status) (data : Data) : ¬ Refused (decOp c ssm data) := by
  cases c <;> simp [Refused, decOp]

theorem not_refused_rowOp (c : Codec) (sdi : Sdi) (data : Data) (ssm : Status) (p : Bool) :
    ¬ Refused (rowOp c sdi data ssm p) := by
  cases c <;> simp [Refused, rowOp]

section Err

variable {i : Instr} {s : State} {r : Result}

theorem exists_answer_of_refused (h : Answers i s r) (herr : r.err = true) (hi : Refused i) :
    ∃ r : Result, Answers i s r ∧ (r.err = true ↔ Refused i) := ⟨r, h, iff_of_true herr hi⟩

theorem exists_answer_of_not_refused (h : Answers i s r) (herr : r.err = false) (hi : ¬ Refused i) :
    ∃ r : Result, Answers i s r ∧ (r.err = true ↔ Refused i) := ⟨r, h, iff_of_false (by rw [herr]; decide) hi⟩

end Err

/-- Settles O50: REV and WENC by their cases; no other result has `err` set. -/
theorem onlyWencAndRevRefuse : Obligations.OnlyWencAndRevRefuse := by
  intro i s
  change ∃ r : Result, Answers i s r ∧ (r.err = true ↔ Refused i)
  cases i using instr_cases with
  | rev sel x =>
    obtain ⟨hsel, h⟩ | ⟨hsel, y, h⟩ := answers_rev_cases sel x s
    · exact exists_answer_of_refused h rfl ((refused_rev_iff sel x).mpr hsel)
    · exact exists_answer_of_not_refused h rfl (mt (refused_rev_iff sel x).mp hsel)
  | pgen w => exact exists_answer_of_not_refused (answers_pgen s w) rfl (by simp [Refused])
  | pchk w => exact exists_answer_of_not_refused (answers_pchk s w) rfl (by simp [Refused])
  | enc c val mode => exact exists_answer_of_not_refused (answers_encOp c val mode s) rfl (not_refused_encOp c val mode)
  | dec c ssm data => exact exists_answer_of_not_refused (answers_decOp c ssm data s) rfl (not_refused_decOp c ssm data)
  | wenc lab sdi val mode =>
    obtain ⟨hcodec, h⟩ | ⟨hcodec, w, h⟩ := answers_wenc_cases lab sdi val mode s
    · exact exists_answer_of_refused h rfl ((refused_wenc_iff lab sdi val mode).mpr hcodec)
    · exact exists_answer_of_not_refused h rfl (mt (refused_wenc_iff lab sdi val mode).mp hcodec)
  | wdec w => exact exists_answer_of_not_refused (answers_wdec s w) (wdecResult_err w) (by simp [Refused])
  | errw => exact exists_answer_of_not_refused (answers_errw s) rfl (by simp [Refused])
  | row c sdi data ssm p =>
    exact exists_answer_of_not_refused (answers_rowOp c sdi data ssm p s) (receivedResult_err _ _ _ _ _)
      (not_refused_rowOp c sdi data ssm p)

/-! ### Unread fields -/

theorem op_cases (op : Op) :
    op = 0x0 ∨ op = 0x1 ∨ op = 0x2 ∨ op = 0x3 ∨ op = 0x4 ∨ op = 0x5 ∨ op = 0x6 ∨ op = 0x7 ∨ op = 0x8 ∨ op = 0x9 ∨
      op = 0xA ∨ op = 0xB ∨ op = 0xC ∨ op = 0xD ∨ op = 0xE ∨ op = 0xF := by
  revert op
  decide

theorem decodeValue_congr {c d : Command} (hpres : c.pres = d.pres) (hval : c.pres = true → c.val = d.val) :
    decodeValue c = decodeValue d := by
  cases h : c.pres with
  | false => rw [decodeValue_absent h, decodeValue_absent (hpres ▸ h)]
  | true => rw [decodeValue_present h, decodeValue_present (hpres ▸ h), hval h]

/-- The mode is read at label 1 only. -/
theorem exec_wenc_congr_mode {lab : Lab} {mode mode' : ModeCode} (h : lab = 0x001 → mode = mode') (sdi : Sdi)
    (val : Option Int) (s : State) : exec (.wenc lab sdi val mode) s = exec (.wenc lab sdi val mode') s := by
  rw [exec_wenc, exec_wenc]
  cases hc : codecOf lab with
  | none => rw [wencResult_noCodec hc, wencResult_noCodec hc]
  | some c =>
    have hencode : encodeBy c val mode = encodeBy c val mode' := by
      cases c with
      | alt => rw [h ((codecOf_eq_some_iff lab .alt).mp hc)]
      | rate | angle | power | flag => rfl
    rw [wencResult_codec hc, wencResult_codec hc, hencode]

/-- Inputs that decode to instructions of one meaning have one first answer. -/
theorem firstAnswer_eq_of_exec_eq {p q : Input} {i j : Instr} (hp : decode p = .ok i) (hq : decode q = .ok j)
    (h : ∀ s, exec i s = exec j s) : ∃ r, firstAnswer p = some r ∧ firstAnswer q = some r := by
  obtain ⟨r, hr⟩ := exec_completes i
  exact ⟨r, firstAnswer_of_step fun s rest hs => step_of_completes hs hp hr,
    firstAnswer_of_step fun s rest hs => step_of_completes hs hq fun t => (h t).symm.trans (hr t)⟩

theorem firstAnswer_eq_of_decode_eq {p q : Input} {i j : Instr} (hp : decode p = .ok i) (hq : decode q = .ok j)
    (h : i = j) : ∃ r, firstAnswer p = some r ∧ firstAnswer q = some r :=
  firstAnswer_eq_of_exec_eq hp hq fun _ => h ▸ rfl

/-- Settles O16: the commands decode to one instruction, or to two WENCs that differ in a mode that is not read. -/
theorem unreadFieldsHaveNoEffect : Obligations.UnreadFieldsHaveNoEffect := by
  intro c d hop hrev hword hdec hval hmode hwenc
  have hvalue : c.op = 0x3 ∨ c.op = 0x5 ∨ c.op = 0x7 ∨ c.op = 0x9 ∨ c.op = 0xB ∨ c.op = 0xD →
      decodeValue c = decodeValue d := fun h => decodeValue_congr (hval h).1 (hval h).2
  obtain h | h | h | h | h | h | h | h | h | h | h | h | h | h | h | h := op_cases c.op
  all_goals have hd := hop.symm.trans h
  · obtain ⟨hwsel, hdata⟩ := hrev h
    exact firstAnswer_eq_of_decode_eq (decode_rev h) (decode_rev hd) (by rw [hwsel, hdata])
  · exact firstAnswer_eq_of_decode_eq (decode_pgen h) (decode_pgen hd) (by rw [hword (by simp [h])])
  · exact firstAnswer_eq_of_decode_eq (decode_pchk h) (decode_pchk hd) (by rw [hword (by simp [h])])
  · exact firstAnswer_eq_of_decode_eq (decode_l1enc h) (decode_l1enc hd) (by rw [hvalue (by simp [h]), hmode h])
  · obtain ⟨hssm, hdata⟩ := hdec (by simp [h])
    exact firstAnswer_eq_of_decode_eq (decode_l1dec h) (decode_l1dec hd) (by rw [hssm, hdata])
  · exact firstAnswer_eq_of_decode_eq (decode_l2enc h) (decode_l2enc hd) (by rw [hvalue (by simp [h])])
  · obtain ⟨hssm, hdata⟩ := hdec (by simp [h])
    exact firstAnswer_eq_of_decode_eq (decode_l2dec h) (decode_l2dec hd) (by rw [hssm, hdata])
  · exact firstAnswer_eq_of_decode_eq (decode_l3enc h) (decode_l3enc hd) (by rw [hvalue (by simp [h])])
  · obtain ⟨hssm, hdata⟩ := hdec (by simp [h])
    exact firstAnswer_eq_of_decode_eq (decode_l3dec h) (decode_l3dec hd) (by rw [hssm, hdata])
  · exact firstAnswer_eq_of_decode_eq (decode_l4enc h) (decode_l4enc hd) (by rw [hvalue (by simp [h])])
  · obtain ⟨hssm, hdata⟩ := hdec (by simp [h])
    exact firstAnswer_eq_of_decode_eq (decode_l4dec h) (decode_l4dec hd) (by rw [hssm, hdata])
  · exact firstAnswer_eq_of_decode_eq (decode_l5enc h) (decode_l5enc hd) (by rw [hvalue (by simp [h])])
  · obtain ⟨hssm, hdata⟩ := hdec (by simp [h])
    exact firstAnswer_eq_of_decode_eq (decode_l5dec h) (decode_l5dec hd) (by rw [hssm, hdata])
  · obtain ⟨hlab, hsdi, hmode1⟩ := hwenc h
    have hdecode := decode_wenc hd
    rw [← hlab, ← hsdi, ← hvalue (by simp [h])] at hdecode
    exact firstAnswer_eq_of_exec_eq (decode_wenc h) hdecode (exec_wenc_congr_mode hmode1 c.sdi _)
  · exact firstAnswer_eq_of_decode_eq (decode_wdec h) (decode_wdec hd) (by rw [hword (by simp [h])])
  · exact firstAnswer_eq_of_decode_eq (decode_errw h) (decode_errw hd) rfl

end Sys2Proof.Machine
end
